-- ==== Sys2Proof/Word.lean ====
section
/-! DEFINITION. The words of the machine: a byte, an instruction word, a nibble field, a 12-bit address field
(spec/00_scope.md R7, R8: all values are unsigned). -/

namespace Sys2Proof

/-- A general register, a timer or a byte of memory: 8 bits (R20, R27, R50). -/
abbrev Byte := BitVec 8

/-- An instruction word, and the storage of `I`, of `pc` and of a stack entry: 16 bits (R24, R70, D29). -/
abbrev Word := BitVec 16

/-- A register index or the height field `N`: 4 bits (R71). -/
abbrev Nibble := BitVec 4

/-- The address field `NNN` and a load record: 12 bits (R34, R71). -/
abbrev Addr := BitVec 12

end Sys2Proof
end

