-- ==== Sys2Proof/Machine/Flags.lean ====
section
/-! DEFINITION. The ALU of spec/41_alu.md R121: the result and the flag of every register operation of category 8. -/

namespace Sys2Proof.Machine

/-- The operations of R121. -/
inductive AluOp where
  | set
  | or
  | and
  | xor
  | add
  | sub
  | subN
  | shr
  | shl
  deriving DecidableEq, Repr

/-- A flag as the byte VF receives. -/
def flagByte (b : Bool) : Byte := if b then 0x01#8 else 0x00#8

/-- Carry: the wrapped sum is less than the first operand (R121). -/
def carryFlag (res a : Byte) : Byte := flagByte (decide (res.toNat < a.toNat))

/-- No borrow: the wrapped difference is not greater than the minuend (R121). -/
def noBorrowFlag (res minuend : Byte) : Byte := flagByte (!decide (minuend.toNat < res.toNat))

/-- Bit 0, which a right shift drops (R121). -/
def lowBitFlag (b : Byte) : Byte := b &&& 0x01#8

/-- Bit 7, which a left shift drops (R121). -/
def highBitFlag (b : Byte) : Byte := (b >>> 7) &&& 0x01#8

/-- The column `res`, from `a = Vx` and `b = Vy`. -/
def aluResult (op : AluOp) (a b : Byte) : Byte :=
  match op with
  | .set => b
  | .or => a ||| b
  | .and => a &&& b
  | .xor => a ^^^ b
  | .add => a + b
  | .sub => a - b
  | .subN => b - a
  | .shr => b >>> 1
  | .shl => b <<< 1

/-- The column `flag`; `none` where the operation writes no flag. -/
def aluFlag (op : AluOp) (a b : Byte) : Option Byte :=
  match op with
  | .set => none
  | .or => some 0x00#8
  | .and => some 0x00#8
  | .xor => some 0x00#8
  | .add => some (carryFlag (a + b) a)
  | .sub => some (noBorrowFlag (a - b) a)
  | .subN => some (noBorrowFlag (b - a) b)
  | .shr => some (lowBitFlag b)
  | .shl => some (highBitFlag b)

end Sys2Proof.Machine
end

