-- ==== Sys2Proof/Syntax.lean ====
section
/-! DEFINITION. The instructions: one constructor per row of spec/opcode_table.json (35 operations and the fallback
Unknown; spec/30_encoding.md R72, R81), with the operand fields of R71. -/

namespace Sys2Proof

/-- `x`, `y`: register indices; `nn`: 8-bit immediate; `nnn`: 12-bit address; `n`: sprite height; `w`: raw word. -/
inductive Instr where
  /-- 00E0 `CLS` (R161). -/
  | clear
  /-- 00EE `RET` (R103). -/
  | ret
  /-- 0NNN `SYS NNN` (R102). -/
  | sys (nnn : Addr)
  /-- 1NNN `JP NNN` (R104). -/
  | jump (nnn : Addr)
  /-- 2NNN `CALL NNN` (R105). -/
  | call (nnn : Addr)
  /-- 3XNN `SE Vx, NN` (R106). -/
  | skipEqImm (x : Nibble) (nn : Byte)
  /-- 4XNN `SNE Vx, NN` (R107). -/
  | skipNeImm (x : Nibble) (nn : Byte)
  /-- 5XY0 `SE Vx, Vy` (R108). -/
  | skipEq (x y : Nibble)
  /-- 6XNN `LD Vx, NN` (R122). -/
  | setImm (x : Nibble) (nn : Byte)
  /-- 7XNN `ADD Vx, NN` (R123). -/
  | addImm (x : Nibble) (nn : Byte)
  /-- 8XY0 `LD Vx, Vy` (R124). -/
  | set (x y : Nibble)
  /-- 8XY1 `OR Vx, Vy` (R125). -/
  | or (x y : Nibble)
  /-- 8XY2 `AND Vx, Vy` (R126). -/
  | and (x y : Nibble)
  /-- 8XY3 `XOR Vx, Vy` (R127). -/
  | xor (x y : Nibble)
  /-- 8XY4 `ADD Vx, Vy` (R128). -/
  | add (x y : Nibble)
  /-- 8XY5 `SUB Vx, Vy` (R129). -/
  | sub (x y : Nibble)
  /-- 8XY6 `SHR Vx, Vy` (R130). -/
  | shr (x y : Nibble)
  /-- 8XY7 `SUBN Vx, Vy` (R131). -/
  | subN (x y : Nibble)
  /-- 8XYE `SHL Vx, Vy` (R132). -/
  | shl (x y : Nibble)
  /-- 9XY0 `SNE Vx, Vy` (R109). -/
  | skipNe (x y : Nibble)
  /-- ANNN `LD I, NNN` (R141). -/
  | setIndex (nnn : Addr)
  /-- BNNN `JP V0, NNN` (R110); its X is the high nibble of NNN. -/
  | jumpOffset (nnn : Addr)
  /-- CXNN `RND Vx, NN` (R133). -/
  | random (x : Nibble) (nn : Byte)
  /-- DXYN `DRW Vx, Vy, N` (R162). -/
  | draw (x y n : Nibble)
  /-- EX9E `SKP Vx` (R111). -/
  | skipKey (x : Nibble)
  /-- EXA1 `SKNP Vx` (R112). -/
  | skipNotKey (x : Nibble)
  /-- FX07 `LD Vx, DT` (R170). -/
  | getDelay (x : Nibble)
  /-- FX0A `LD Vx, K` (R173). -/
  | getKey (x : Nibble)
  /-- FX15 `LD DT, Vx` (R171). -/
  | setDelay (x : Nibble)
  /-- FX18 `LD ST, Vx` (R172). -/
  | setSound (x : Nibble)
  /-- FX1E `ADD I, Vx` (R142). -/
  | addIndex (x : Nibble)
  /-- FX29 `LD F, Vx` (R143). -/
  | font (x : Nibble)
  /-- FX33 `LD B, Vx` (R144). -/
  | bcd (x : Nibble)
  /-- FX55 `LD [I], Vx` (R145). -/
  | store (x : Nibble)
  /-- FX65 `LD Vx, [I]` (R146). -/
  | restore (x : Nibble)
  /-- Any other word (R80, R113). -/
  | unknown (w : Word)
  deriving DecidableEq, Repr

end Sys2Proof
end

