-- ==== Sys2Proof/WellFormed.lean ====
section
/-! DEFINITION. Which terms of `Instr` stand for an instruction: the field types already bound every operand
(spec/30_encoding.md R71); what remains is that a Sys is neither Clear nor Return (R74) and that an Unknown carries a
word that no row names (R80). -/

namespace Sys2Proof

/-- A Sys address whose low byte is that of Clear or Return names one of these instead (R74). -/
def sysAddressOk (nnn : Addr) : Bool :=
  nnn.extractLsb' 0 8 != 0xE0#8 && nnn.extractLsb' 0 8 != 0xEE#8

/-- The sub-operation nibbles of category 8 that R76 leaves to Unknown. -/
def unusedAluNibble (n : Nibble) : Bool :=
  [0x8#4, 0x9#4, 0xA#4, 0xB#4, 0xC#4, 0xD#4, 0xF#4].contains n

/-- The nine sub-operation bytes of category F (R79). -/
def namedFByte (nn : Byte) : Bool :=
  [0x07#8, 0x0A#8, 0x15#8, 0x18#8, 0x1E#8, 0x29#8, 0x33#8, 0x55#8, 0x65#8].contains nn

/-- The list of R80, written out: the words that no named operation takes. -/
def isUnknownWord (w : Word) : Bool :=
  let c := w.extractLsb' 12 4
  let n := w.extractLsb' 0 4
  let nn := w.extractLsb' 0 8
  (c == 0x5#4 && n != 0#4) || (c == 0x8#4 && unusedAluNibble n) || (c == 0x9#4 && n != 0#4)
    || (c == 0xE#4 && nn != 0x9E#8 && nn != 0xA1#8) || (c == 0xF#4 && !namedFByte nn)

/-- The check. -/
def wellFormed : Instr → Bool
  | .sys nnn => sysAddressOk nnn
  | .unknown w => isUnknownWord w
  | .clear => true
  | .ret => true
  | .jump _ => true
  | .call _ => true
  | .skipEqImm _ _ => true
  | .skipNeImm _ _ => true
  | .skipEq _ _ => true
  | .setImm _ _ => true
  | .addImm _ _ => true
  | .set _ _ => true
  | .or _ _ => true
  | .and _ _ => true
  | .xor _ _ => true
  | .add _ _ => true
  | .sub _ _ => true
  | .shr _ _ => true
  | .subN _ _ => true
  | .shl _ _ => true
  | .skipNe _ _ => true
  | .setIndex _ => true
  | .jumpOffset _ => true
  | .random _ _ => true
  | .draw _ _ _ => true
  | .skipKey _ => true
  | .skipNotKey _ => true
  | .getDelay _ => true
  | .getKey _ => true
  | .setDelay _ => true
  | .setSound _ => true
  | .addIndex _ => true
  | .font _ => true
  | .bcd _ => true
  | .store _ => true
  | .restore _ => true

end Sys2Proof
end

