-- ==== Sys2Proof/Decode.lean ====
section
/-! DEFINITION. The decoder of spec/30_encoding.md (R70–R80), the ambiguous set A (R83), the encoder and the opcode
table's masks, all written from that file and from spec/opcode_table.json. -/

namespace Sys2Proof

/-! Fields of a word (R71). -/

/-- The category `c = w[15:12]`. -/
def category (w : Word) : Nibble := w.extractLsb' 12 4

/-- `X = w[11:8]`. -/
def fieldX (w : Word) : Nibble := w.extractLsb' 8 4

/-- `Y = w[7:4]`. -/
def fieldY (w : Word) : Nibble := w.extractLsb' 4 4

/-- `N = w[3:0]`. -/
def fieldN (w : Word) : Nibble := w.extractLsb' 0 4

/-- `NN = w[7:0]`. -/
def fieldNN (w : Word) : Byte := w.extractLsb' 0 8

/-- `NNN = w[11:0]`. -/
def fieldNNN (w : Word) : Addr := w.extractLsb' 0 12

/-! The second dispatch of each category that has one. -/

/-- Category 0: on the bottom byte, `w[11:8]` not examined (R74, D11). -/
def decodeCat0 (w : Word) : Instr :=
  match (fieldNN w).toNat with
  | 0xE0 => .clear
  | 0xEE => .ret
  | _ => .sys (fieldNNN w)

/-- Category 5: only N = 0 is SkipEq (R75, C2). -/
def decodeCat5 (w : Word) : Instr :=
  match (fieldN w).toNat with
  | 0 => .skipEq (fieldX w) (fieldY w)
  | _ => .unknown w

/-- Category 8: on the bottom nibble (R76). -/
def decodeCat8 (w : Word) : Instr :=
  match (fieldN w).toNat with
  | 0x0 => .set (fieldX w) (fieldY w)
  | 0x1 => .or (fieldX w) (fieldY w)
  | 0x2 => .and (fieldX w) (fieldY w)
  | 0x3 => .xor (fieldX w) (fieldY w)
  | 0x4 => .add (fieldX w) (fieldY w)
  | 0x5 => .sub (fieldX w) (fieldY w)
  | 0x6 => .shr (fieldX w) (fieldY w)
  | 0x7 => .subN (fieldX w) (fieldY w)
  | 0xE => .shl (fieldX w) (fieldY w)
  | _ => .unknown w

/-- Category 9: only N = 0 is SkipNe (R77). -/
def decodeCat9 (w : Word) : Instr :=
  match (fieldN w).toNat with
  | 0 => .skipNe (fieldX w) (fieldY w)
  | _ => .unknown w

/-- Category E: on the bottom byte (R78). -/
def decodeCatE (w : Word) : Instr :=
  match (fieldNN w).toNat with
  | 0x9E => .skipKey (fieldX w)
  | 0xA1 => .skipNotKey (fieldX w)
  | _ => .unknown w

/-- Category F: on the bottom byte (R79). -/
def decodeCatF (w : Word) : Instr :=
  match (fieldNN w).toNat with
  | 0x07 => .getDelay (fieldX w)
  | 0x0A => .getKey (fieldX w)
  | 0x15 => .setDelay (fieldX w)
  | 0x18 => .setSound (fieldX w)
  | 0x1E => .addIndex (fieldX w)
  | 0x29 => .font (fieldX w)
  | 0x33 => .bcd (fieldX w)
  | 0x55 => .store (fieldX w)
  | 0x65 => .restore (fieldX w)
  | _ => .unknown w

/-- `Decode(w)`: pure and total, on the category first (R72, R73). The encodings the source does not give are the
spec's, from general knowledge (N1): PRESUMED, log entry 18, unsafe. -/
def decode (w : Word) : Instr :=
  match (category w).toNat with
  | 0x0 => decodeCat0 w
  | 0x1 => .jump (fieldNNN w)
  | 0x2 => .call (fieldNNN w)
  | 0x3 => .skipEqImm (fieldX w) (fieldNN w)
  | 0x4 => .skipNeImm (fieldX w) (fieldNN w)
  | 0x5 => decodeCat5 w
  | 0x6 => .setImm (fieldX w) (fieldNN w)
  | 0x7 => .addImm (fieldX w) (fieldNN w)
  | 0x8 => decodeCat8 w
  | 0x9 => decodeCat9 w
  | 0xA => .setIndex (fieldNNN w)
  | 0xB => .jumpOffset (fieldNNN w)
  | 0xC => .random (fieldX w) (fieldNN w)
  | 0xD => .draw (fieldX w) (fieldY w) (fieldN w)
  | 0xE => decodeCatE w
  | 0xF => decodeCatF w
  | _ => .unknown w

/-! Bytes. -/

/-- `hi ++ lo`: the byte fetched first is `w[15:8]` (R7, R54). -/
def joinWord (hi lo : Byte) : Word := hi ++ lo

/-- The byte of a word that is fetched first. -/
def highByte (w : Word) : Byte := w.extractLsb' 8 8

/-- The byte of a word that is fetched second. -/
def lowByte (w : Word) : Byte := w.extractLsb' 0 8

/-- Why a string of bytes gives no instruction. -/
inductive DecodeError where
  /-- Fewer than the two bytes that every instruction has (R70). -/
  | truncated
  deriving DecidableEq, Repr

/-- The instruction at the head of a string of bytes, and the rest of it: two bytes, most significant first (R70). -/
def decodeBytes : List Byte → Except DecodeError (Instr × List Byte)
  | hi :: lo :: rest => .ok (decode (joinWord hi lo), rest)
  | [_] => .error .truncated
  | [] => .error .truncated

/-- The decoder asked about a word numbered as spec/opcode_table.json numbers it: laid out most significant byte
first, as the hardware stores it. -/
def decodeTableWord (nbits w : Nat) : Option Instr :=
  if nbits = 0 ∨ 16 < nbits ∨ 2 ^ nbits ≤ w then none
  else
    match decodeBytes [highByte (BitVec.ofNat 16 w), lowByte (BitVec.ofNat 16 w)] with
    | .ok (i, _) => some i
    | .error _ => none

/-- The ambiguous set A (R83): (a) 0NNN with NNN not 0x0E0 or 0x0EE, (b) BNNN, (c) 5XYN with N != 0. -/
def ambiguous (w : Word) : Bool :=
  (category w == 0x0#4 && fieldNNN w != 0x0E0#12 && fieldNNN w != 0x0EE#12)
    || category w == 0xB#4
    || (category w == 0x5#4 && fieldN w != 0#4)

/-- Whether an operation is GetKey (R100). -/
def isGetKey : Instr → Bool
  | .getKey _ => true
  | _ => false

/-! The encoder: the pattern column of R73–R79. -/

/-- A word of the form `cNNN`. -/
def wordNNN (c : Nibble) (nnn : Addr) : Word := c ++ nnn

/-- A word of the form `cXNN`. -/
def wordXNN (c x : Nibble) (nn : Byte) : Word := c ++ x ++ nn

/-- A word of the form `cXYN`. -/
def wordXYN (c x y n : Nibble) : Word := c ++ x ++ y ++ n

/-- The word of an instruction; Clear and Return, whose `w[11:8]` is not examined, get the words of R84, 00E0 and
00EE. DESIGN CHOICE, log entry 13: safe. -/
def encode : Instr → Word
  | .clear => 0x00E0#16
  | .ret => 0x00EE#16
  | .sys nnn => wordNNN 0x0#4 nnn
  | .jump nnn => wordNNN 0x1#4 nnn
  | .call nnn => wordNNN 0x2#4 nnn
  | .skipEqImm x nn => wordXNN 0x3#4 x nn
  | .skipNeImm x nn => wordXNN 0x4#4 x nn
  | .skipEq x y => wordXYN 0x5#4 x y 0x0#4
  | .setImm x nn => wordXNN 0x6#4 x nn
  | .addImm x nn => wordXNN 0x7#4 x nn
  | .set x y => wordXYN 0x8#4 x y 0x0#4
  | .or x y => wordXYN 0x8#4 x y 0x1#4
  | .and x y => wordXYN 0x8#4 x y 0x2#4
  | .xor x y => wordXYN 0x8#4 x y 0x3#4
  | .add x y => wordXYN 0x8#4 x y 0x4#4
  | .sub x y => wordXYN 0x8#4 x y 0x5#4
  | .shr x y => wordXYN 0x8#4 x y 0x6#4
  | .subN x y => wordXYN 0x8#4 x y 0x7#4
  | .shl x y => wordXYN 0x8#4 x y 0xE#4
  | .skipNe x y => wordXYN 0x9#4 x y 0x0#4
  | .setIndex nnn => wordNNN 0xA#4 nnn
  | .jumpOffset nnn => wordNNN 0xB#4 nnn
  | .random x nn => wordXNN 0xC#4 x nn
  | .draw x y n => wordXYN 0xD#4 x y n
  | .skipKey x => wordXNN 0xE#4 x 0x9E#8
  | .skipNotKey x => wordXNN 0xE#4 x 0xA1#8
  | .getDelay x => wordXNN 0xF#4 x 0x07#8
  | .getKey x => wordXNN 0xF#4 x 0x0A#8
  | .setDelay x => wordXNN 0xF#4 x 0x15#8
  | .setSound x => wordXNN 0xF#4 x 0x18#8
  | .addIndex x => wordXNN 0xF#4 x 0x1E#8
  | .font x => wordXNN 0xF#4 x 0x29#8
  | .bcd x => wordXNN 0xF#4 x 0x33#8
  | .store x => wordXNN 0xF#4 x 0x55#8
  | .restore x => wordXNN 0xF#4 x 0x65#8
  | .unknown w => w

/-- The bytes of an instruction as memory holds them. -/
def encodeBytes (i : Instr) : List Byte := [highByte (encode i), lowByte (encode i)]

/-! The opcode table (spec/opcode_table.json): mask, pattern and priority of each row. -/

/-- A row: the bits it fixes, their values, and its priority number (the lowest matching number wins). -/
structure Row where
  /-- The table's `mask`. -/
  mask : Word
  /-- The table's `match`. -/
  pattern : Word
  /-- The table's `priority`. -/
  priority : Nat
  deriving DecidableEq, Repr

/-- Whether a word has the bits a row fixes. -/
def rowMatches (r : Row) (w : Word) : Bool := w &&& r.mask == r.pattern

/-- The row of an instruction, as the table gives it. -/
def rowOf : Instr → Row
  | .clear => ⟨0xF0FF#16, 0x00E0#16, 1⟩
  | .ret => ⟨0xF0FF#16, 0x00EE#16, 1⟩
  | .sys _ => ⟨0xF000#16, 0x0000#16, 2⟩
  | .jump _ => ⟨0xF000#16, 0x1000#16, 1⟩
  | .call _ => ⟨0xF000#16, 0x2000#16, 1⟩
  | .skipEqImm _ _ => ⟨0xF000#16, 0x3000#16, 1⟩
  | .skipNeImm _ _ => ⟨0xF000#16, 0x4000#16, 1⟩
  | .skipEq _ _ => ⟨0xF00F#16, 0x5000#16, 1⟩
  | .setImm _ _ => ⟨0xF000#16, 0x6000#16, 1⟩
  | .addImm _ _ => ⟨0xF000#16, 0x7000#16, 1⟩
  | .set _ _ => ⟨0xF00F#16, 0x8000#16, 1⟩
  | .or _ _ => ⟨0xF00F#16, 0x8001#16, 1⟩
  | .and _ _ => ⟨0xF00F#16, 0x8002#16, 1⟩
  | .xor _ _ => ⟨0xF00F#16, 0x8003#16, 1⟩
  | .add _ _ => ⟨0xF00F#16, 0x8004#16, 1⟩
  | .sub _ _ => ⟨0xF00F#16, 0x8005#16, 1⟩
  | .shr _ _ => ⟨0xF00F#16, 0x8006#16, 1⟩
  | .subN _ _ => ⟨0xF00F#16, 0x8007#16, 1⟩
  | .shl _ _ => ⟨0xF00F#16, 0x800E#16, 1⟩
  | .skipNe _ _ => ⟨0xF00F#16, 0x9000#16, 1⟩
  | .setIndex _ => ⟨0xF000#16, 0xA000#16, 1⟩
  | .jumpOffset _ => ⟨0xF000#16, 0xB000#16, 1⟩
  | .random _ _ => ⟨0xF000#16, 0xC000#16, 1⟩
  | .draw _ _ _ => ⟨0xF000#16, 0xD000#16, 1⟩
  | .skipKey _ => ⟨0xF0FF#16, 0xE09E#16, 1⟩
  | .skipNotKey _ => ⟨0xF0FF#16, 0xE0A1#16, 1⟩
  | .getDelay _ => ⟨0xF0FF#16, 0xF007#16, 1⟩
  | .getKey _ => ⟨0xF0FF#16, 0xF00A#16, 1⟩
  | .setDelay _ => ⟨0xF0FF#16, 0xF015#16, 1⟩
  | .setSound _ => ⟨0xF0FF#16, 0xF018#16, 1⟩
  | .addIndex _ => ⟨0xF0FF#16, 0xF01E#16, 1⟩
  | .font _ => ⟨0xF0FF#16, 0xF029#16, 1⟩
  | .bcd _ => ⟨0xF0FF#16, 0xF033#16, 1⟩
  | .store _ => ⟨0xF0FF#16, 0xF055#16, 1⟩
  | .restore _ => ⟨0xF0FF#16, 0xF065#16, 1⟩
  | .unknown _ => ⟨0x0000#16, 0x0000#16, 3⟩

end Sys2Proof
end

