-- ==== Sys2Proof/Config.lean ====
section
/-! DEFINITION. What is fixed for a machine but not by the spec: the OPEN parameters of spec/00_scope.md R6 and the
free values (opaque, so that no proof can see them), the host's choice of transactions (R38) among them. -/

namespace Sys2Proof

/-- The meaning of the words BNNN (spec/92_eei_decisions.md D10, spec/40_control_flow.md R110). -/
inductive BnnnMode where
  /-- `pc <- NNN + V0`. -/
  | v0
  /-- `pc <- NNN + Vx`, with X = w[11:8]. -/
  | vx
  /-- The step is refused. -/
  | refuse
  deriving DecidableEq, Repr

/-- How the words of the ambiguous set A are treated (spec/30_encoding.md R83, D12). -/
inductive AmbiguousPolicy where
  /-- Decode and execute them as the spec decides. -/
  | decided
  /-- A step whose fetched word is in A is refused. -/
  | refuse
  deriving DecidableEq, Repr

/-- The parameters a model of this block takes as arguments (R6): every statement holds for every value of them
unless it names one. -/
structure Params where
  /-- BNNN_MODE (D10). -/
  bnnnMode : BnnnMode
  /-- AMBIGUOUS_POLICY (D12). -/
  policy : AmbiguousPolicy
  /-- STACK_DEPTH (D24): `none` is the spec's default, unbounded. -/
  stackDepth : Option Nat
  deriving DecidableEq, Repr

/-- The parameter values the spec names for simulation and for its test vectors: BNNN_MODE = V0, AMBIGUOUS_POLICY =
DECIDED (D10, D12, spec/95_test_vectors.md), STACK_DEPTH unbounded (D24). DESIGN CHOICE, log entry 6: unsafe. -/
def Params.simulation : Params := { bnnnMode := .v0, policy := .decided, stackDepth := none }

/-- The transactions the block is driven by (R38). -/
inductive Transaction where
  /-- `load(addr, bytes)`: the font the first time, the cartridge the second time (R59, R60). -/
  | load (addr : Nat) (bytes : List Byte)
  /-- One engine step (R100). -/
  | step
  /-- `key_press(k)` (R174, R175). -/
  | keyPress (k : Fin 16)
  /-- `key_release(k)` (R174, R175). -/
  | keyRelease (k : Fin 16)
  /-- One tick of the Timer Subsystem (R208). -/
  | tick
  /-- `render_ack(ok)` (R212). -/
  | renderAck (ok : Bool)
  /-- `quit` (R213). -/
  | quit
  deriving DecidableEq, Repr, Inhabited

/-- FREE VALUE: the transaction that the host issues as number `n` of a free schedule (R38, R243, D18: every order, with
every payload). Log entry 3: safe. -/
opaque Config.hostTransaction (n : Nat) : Transaction

/-- FREE VALUE: the byte that draw number `n` of the randomness source answers (R133, D25: any byte, no law between
draws). Log entry 7: safe. -/
opaque Config.randByte (n : Nat) : Byte

/-- FREE VALUE: what FX29 reads while FONT_BASE is unset (R37); no run executes an instruction then (R241).
Log entry 8: safe. -/
opaque Config.unsetFontBase : Addr

/-- OPEN parameter CYCLE_DURATION (R6); no rule reads it (R247), and neither does the model. Log entry 20: safe. -/
opaque Config.cycleDuration : Nat

/-- Parameter TIMER_PERIOD, nominally 1/60 s (R6, R209); no rule reads it, and neither does the model. Log entry 20:
safe. -/
opaque Config.timerPeriod : Nat

end Sys2Proof
end

