-- ==== Sys2Proof/Machine/State.lean ====
section
/-! DEFINITION. The state of the block (spec/10_state.md R20–R37) as plain data, its faults and refusals, the
events the block emits (R39), what the host issues next (R38), and the state after construction (R37). -/

namespace Sys2Proof.Machine

/-- The fault catalogue of spec/60_exceptions.md R200. Taking a fault F leaves `run = Halted(F)` (a next state, R201,
log entry 1); a transaction of a machine that is Halted(F) answers `Host.Outcome.fault F`, for no transaction is
enabled there. Stopping is safe: nothing is claimed of what comes after. -/
inductive Fault where
  /-- Code 1: an address >= 4096, raised by fetch, DXYN, FX33, FX55, FX65 and the loader. The spec's own: safe. -/
  | memoryOverflow (addr : Nat)
  /-- Code 2: a register index >= 16, raised by any register access; no instruction reaches it (R21): safe. -/
  | registerIndexOverflow (i : Nat)
  /-- Code 3: a value >= 4096 for `I`, raised by SetI in FX1E, FX29, FX55, FX65. The spec's own: safe. -/
  | indexRegisterOverflow (v : Nat)
  /-- Code 4: a value >= 4096 for `pc`, raised by Advance, JumpTo and the return address check of 2NNN. The spec's
  own: safe. -/
  | programCounterOverflow (t : Nat)
  /-- Code 5: 00EE with an empty stack. The spec's own: safe. -/
  | stackUnderflow
  /-- Code 6: `render_ack(fail)`. The spec's own: safe. -/
  | renderFailure
  /-- Code 7: 2NNN on a full stack under a finite STACK_DEPTH (D24): safe. -/
  | stackOverflow
  /-- Code 8: EX9E and EXA1 with Vx >= 16; the model stops where the reference may go on (D14): safe. -/
  | keyIndexOutOfRange (k : Nat)
  /-- Code 9: a step in Released whose word is not GetKey; unreachable from reset (R177, D30): safe. -/
  | inputStateInvariant (w : Word)
  deriving DecidableEq, Repr

/-- The codes of R200. -/
def Fault.code : Fault → Nat
  | .memoryOverflow _ => 1
  | .registerIndexOverflow _ => 2
  | .indexRegisterOverflow _ => 3
  | .programCounterOverflow _ => 4
  | .stackUnderflow => 5
  | .renderFailure => 6
  | .stackOverflow => 7
  | .keyIndexOutOfRange _ => 8
  | .inputStateInvariant _ => 9

/-- Why the model gives a word no meaning. -/
inductive Refusal where
  /-- Raised by an arm of `exec` whose instruction has no meaning yet; no arm does: safe. -/
  | notModelled (mnemonic : String)
  /-- Raised by a step that fetches a word of the ambiguous set A under AMBIGUOUS_POLICY = REFUSE, and only then
  (R83): safe. -/
  | ambiguousWord (w : Word)
  /-- Raised by BNNN under BNNN_MODE = REFUSE, and only then (R110, D10): safe. -/
  | jumpOffsetMode (nnn : Addr)
  deriving DecidableEq, Repr

/-- The input-block state (R32). -/
inductive IState where
  /-- No key wait. -/
  | idle
  /-- A GetKey waits for a press. -/
  | paused
  /-- Key `k` was pressed; the wait goes on until it is released. -/
  | pressed (k : Fin 16)
  /-- Key `k` was pressed and released; the next step resumes the GetKey. -/
  | released (k : Fin 16)
  deriving DecidableEq, Repr

/-- The run state (R33). -/
inductive RunState where
  /-- Transactions are admitted. -/
  | running
  /-- A fault ended the run. -/
  | halted (f : Fault)
  /-- The quit signal ended the run. -/
  | stopped
  deriving DecidableEq, Repr

/-- The output events (R39). -/
inductive Event where
  /-- An Unknown step (R113). -/
  | unknownOpcode (w : Word)
  /-- A tick brought ST from 1 to 0 (R210). -/
  | soundZero
  /-- A fault latched (R201). -/
  | halted (f : Fault)
  deriving DecidableEq, Repr

/-- What the host issues once its script is empty: an endless sequence of transactions (R38, R243). Log entry 3. -/
inductive Onward where
  /-- The list `t :: ts` over and over. -/
  | repeating (t : Transaction) (ts : List Transaction)
  /-- Any sequence whatever: the free schedule from its transaction number `n` on. -/
  | free (n : Nat)
  deriving DecidableEq, Repr

/-- Memory: the bytes that differ from what an unlisted address reads as, addresses strictly rising (log entry 11). -/
abbrev Memory := List Host.Cell

/-- The display, row by row: `disp[r][c]` is the spec's `disp[c][r]` (R29; log entry 10). -/
abbrev Display := Vector (Vector Bool 64) 32

/-- The state of the machine. The last five fields are the model's own, not the spec's state. -/
structure State where
  /-- V0..VF (R20); VF is also the flag register (R23). -/
  v : Vector Byte 16
  /-- `I` (R24). -/
  index : Word
  /-- The program counter (R25). -/
  pc : Word
  /-- The call stack, top first (R26). -/
  stack : List Word
  /-- The delay timer DT (R27). -/
  dt : Byte
  /-- The sound timer ST (R28). -/
  st : Byte
  /-- The display buffer (R29). -/
  disp : Display
  /-- The dirty flag (R30). -/
  dirty : Bool
  /-- The key flags (R31). -/
  keys : Vector Bool 16
  /-- The input-block state (R32). -/
  istate : IState
  /-- The run state (R33). -/
  run : RunState
  /-- FONT_BASE; `none` is the spec's "unset" (R34, R37). -/
  fontBase : Option Addr
  /-- CART_BASE; `none` is the spec's "unset" (R34, R37). -/
  cartBase : Option Addr
  /-- Memory (R50). -/
  mem : Memory
  /-- The OPEN parameters (R6); never written. Log entry 6. -/
  params : Params
  /-- How many random bytes have been drawn: the index of the next free value (R133). Log entry 7. -/
  draws : Nat
  /-- The events emitted so far, newest first (R39); nothing reads it. Log entry 9. -/
  events : List Event
  /-- The transactions the host issues next, oldest first (R38, R243, D18). Log entry 3. -/
  script : List Transaction
  /-- What the host issues after `script`, without end (R243, D18). Log entry 3. -/
  onward : Onward
  deriving DecidableEq, Repr

/-- What a transaction answers. -/
abbrev Result := Host.Outcome State Fault Refusal

/-- The state after construction (R37, R240). The parameters, the empty `events` and `script`, the free schedule and
`draws = 0` are DESIGN CHOICES of the model (log entries 3, 6, 7, 9). -/
def State.reset : State where
  v := Vector.replicate 16 0x00#8
  index := 0x0000#16
  pc := 0x0000#16
  stack := []
  dt := 0x00#8
  st := 0x00#8
  disp := Vector.replicate 32 (Vector.replicate 64 false)
  dirty := false
  keys := Vector.replicate 16 false
  istate := .idle
  run := .running
  fontBase := none
  cartBase := none
  mem := []
  params := Params.simulation
  draws := 0
  events := []
  script := []
  onward := .free 0

/-! The updates, one per field that anything writes. -/

/-- Write all registers. -/
def State.setV (s : State) (v : Vector Byte 16) : State := { s with v := v }
/-- Write `I`. -/
def State.setIndex (s : State) (i : Word) : State := { s with index := i }
/-- Write `pc`. -/
def State.setPc (s : State) (p : Word) : State := { s with pc := p }
/-- Write the call stack. -/
def State.setStack (s : State) (l : List Word) : State := { s with stack := l }
/-- Write DT. -/
def State.setDt (s : State) (b : Byte) : State := { s with dt := b }
/-- Write ST. -/
def State.setSt (s : State) (b : Byte) : State := { s with st := b }
/-- Write the display. -/
def State.setDisp (s : State) (d : Display) : State := { s with disp := d }
/-- Write the dirty flag. -/
def State.setDirty (s : State) (b : Bool) : State := { s with dirty := b }
/-- Write the key flags. -/
def State.setKeys (s : State) (k : Vector Bool 16) : State := { s with keys := k }
/-- Write the input-block state. -/
def State.setIstate (s : State) (i : IState) : State := { s with istate := i }
/-- Write the run state. -/
def State.setRun (s : State) (r : RunState) : State := { s with run := r }
/-- Write FONT_BASE. -/
def State.setFontBase (s : State) (b : Option Addr) : State := { s with fontBase := b }
/-- Write CART_BASE. -/
def State.setCartBase (s : State) (b : Option Addr) : State := { s with cartBase := b }
/-- Write memory. -/
def State.setMem (s : State) (m : Memory) : State := { s with mem := m }
/-- Write the draw counter. -/
def State.setDraws (s : State) (n : Nat) : State := { s with draws := n }
/-- Write the event trace. -/
def State.setEvents (s : State) (l : List Event) : State := { s with events := l }
/-- Write the host's script. -/
def State.setScript (s : State) (l : List Transaction) : State := { s with script := l }
/-- Write what the host issues after its script. -/
def State.setOnward (s : State) (o : Onward) : State := { s with onward := o }

end Sys2Proof.Machine
end

