-- ==== Sys2Proof/Machine/Ops.lean ====
section
/-! DEFINITION. The named operations over the state that every rule is written with (spec/00_scope.md R9): memory,
registers, `raise`, `SetI`, `Advance`, `JumpTo`, `Rand`, `emit`, the stack, and taking a fault. -/

namespace Sys2Proof.Machine

/-! Memory as data (R50): `read` and `write` of one byte, and the canonical form. -/

/-- What an address that memory does not list reads as: memory is zero-initialised (R37). Log entry 11. -/
def Memory.unlisted : Byte := 0x00#8

/-- `M[a]`. -/
def Memory.read : Memory → Nat → Byte
  | [], _ => Memory.unlisted
  | (b, v) :: m, a => if b = a then v else Memory.read m a

/-- `M[a] <- v`, keeping the canonical form: the unlisted value removes the entry. -/
def Memory.write : Memory → Nat → Byte → Memory
  | [], a, v => if v = Memory.unlisted then [] else [(a, v)]
  | (b, w) :: m, a, v =>
    if a < b then (if v = Memory.unlisted then (b, w) :: m else (a, v) :: (b, w) :: m)
    else if a = b then (if v = Memory.unlisted then m else (a, v) :: m)
    else (b, w) :: Memory.write m a v

/-- The canonical form, for addresses from `lo` on. -/
def Memory.wfFrom : Nat → Memory → Bool
  | _, [] => true
  | lo, (a, v) :: m => decide (lo ≤ a) && decide (a < 4096) && v != Memory.unlisted && Memory.wfFrom (a + 1) m

/-- The canonical form: addresses strictly rising and below 4096, no entry that equals what an unlisted address
reads as. -/
def Memory.wf (m : Memory) : Bool := Memory.wfFrom 0 m

/-- Consecutive bytes from `a` on, in ascending order. -/
def Memory.writeBytes : Memory → Nat → List Byte → Memory
  | m, _, [] => m
  | m, a, b :: bs => Memory.writeBytes (Memory.write m a b) (a + 1) bs

/-! Registers and pixels as data. -/

/-- `x[X]` for a 4-bit index (R20). -/
def State.reg (s : State) (x : Nibble) : Byte := s.v[x.toNat]'x.isLt

/-- `x[X] <- b` for a 4-bit index (R20). -/
def State.setReg (s : State) (x : Nibble) (b : Byte) : State := s.setV (s.v.set x.toNat b x.isLt)

/-- The number of VF, the flag register (R23). -/
def vf : Nibble := 0xF#4

/-- `disp[c][r]` (R29). -/
def State.pixel (s : State) (c : Fin 64) (r : Fin 32) : Bool := (s.disp[r.val])[c.val]

/-- `disp[c][r] <- b` (R29). -/
def State.setPixel (s : State) (c : Fin 64) (r : Fin 32) (b : Bool) : State :=
  s.setDisp (s.disp.set r.val ((s.disp[r.val]).set c.val b))

/-- `key[k]` (R31). -/
def State.key (s : State) (k : Fin 16) : Bool := s.keys[k.val]

/-- `emit E` (R39). -/
def State.emit (s : State) (e : Event) : State := s.setEvents (e :: s.events)

/-- The run loop has started: both loads have recorded their base (R37, R241). Log entry 4. -/
def State.booted (s : State) : Bool := s.fontBase.isSome && s.cartBase.isSome

/-! Taking a fault, and programs of statements. -/

/-- TAKING A FAULT (R201, R202), the one operation for all of them: `run <- Halted(F)`, `halted(F)` is emitted,
everything else stays as the statements before left it; `pc` still addresses the faulting instruction. There is no
return from a fault (R206). Log entry 1. -/
def takeFault (f : Fault) (s : State) : State := (s.setRun (.halted f)).emit (.halted f)

/-- Why the statements of a rule end early. -/
inductive Stop where
  /-- `raise F`. -/
  | fault (f : Fault)
  /-- `refuse`. -/
  | refuse (r : Refusal)
  deriving DecidableEq, Repr

/-- The statements of a rule, run in order (R10): a read sees every earlier write, and a raise keeps them. -/
abbrev Exec := EStateM Stop State

/-- `raise F` (R9). -/
def raise {α : Type} (f : Fault) : Exec α := fun s => .error (.fault f) s

/-- `refuse` (R83, R110). -/
def refuse {α : Type} (r : Refusal) : Exec α := fun s => .error (.refuse r) s

/-- A whole transaction from its statements: a raised fault is taken in the state the earlier statements left (R202). -/
def finish (m : Exec Unit) (s : State) : Result :=
  match m s with
  | .ok _ t => .next t
  | .error (.fault f) t => .next (takeFault f t)
  | .error (.refuse r) _ => .refused r

/-! Reads and writes as statements. -/

/-- A read of a register, with the index check of R21. -/
def readReg (i : Nat) : Exec Byte := fun s =>
  if h : i < 16 then .ok (s.v[i]) s else .error (.fault (.registerIndexOverflow i)) s

/-- A write of a register, with the index check of R21. -/
def writeReg (i : Nat) (b : Byte) : Exec Unit := fun s =>
  if h : i < 16 then .ok () (s.setV (s.v.set i b)) else .error (.fault (.registerIndexOverflow i)) s

/-- `MemRead(a, 1)` (R51). -/
def memRead (a : Nat) : Exec Byte := fun s =>
  if a < 4096 then .ok (Memory.read s.mem a) s else .error (.fault (.memoryOverflow a)) s

/-- `MemWrite(a, 1, b)` (R52). -/
def memWrite (a : Nat) (b : Byte) : Exec Unit := fun s =>
  if a < 4096 then .ok () (s.setMem (Memory.write s.mem a b)) else .error (.fault (.memoryOverflow a)) s

/-- A read of some part of the state. -/
def readState {α : Type} (f : State → α) : Exec α := fun s => .ok (f s) s

/-- An update that checks nothing. -/
def modifyState (f : State → State) : Exec Unit := fun s => .ok () (f s)

/-- `SetI(t)` (R140): the only write of `I`. -/
def setI (t : Nat) : Exec Unit := fun s =>
  if t < 4096 then .ok () (s.setIndex (BitVec.ofNat 16 t)) else .error (.fault (.indexRegisterOverflow t)) s

/-- `JumpTo(t)` (R101). -/
def jumpTo (t : Nat) : Exec Unit := fun s =>
  if t < 4096 then .ok () (s.setPc (BitVec.ofNat 16 t)) else .error (.fault (.programCounterOverflow t)) s

/-- `Advance(k)` (R101). -/
def advance (k : Nat) : Exec Unit := fun s => jumpTo (s.pc.toNat + k) s

/-- `Rand()`: one draw, a free value (R133, D25). -/
def rand : Exec Byte := fun s => .ok (Config.randByte s.draws) (s.setDraws (s.draws + 1))

/-- The push of 2NNN: the return address is checked, then STACK_DEPTH (R105, D8, D24). -/
def pushReturn (r : Nat) : Exec Unit := fun s =>
  if r < 4096 then
    if s.params.stackDepth = some s.stack.length then .error (.fault .stackOverflow) s
    else .ok () (s.setStack (BitVec.ofNat 16 r :: s.stack))
  else .error (.fault (.programCounterOverflow r)) s

/-- The pop of 00EE (R103). -/
def popReturn : Exec Nat := fun s =>
  match s.stack with
  | [] => .error (.fault .stackUnderflow) s
  | t :: rest => .ok t.toNat (s.setStack rest)

/-- FONT_BASE as FX29 reads it (R143); while it is unset, a free value (log entry 8). -/
def State.fontBaseValue (s : State) : Nat := (s.fontBase.getD Config.unsetFontBase).toNat

/-- `Fetch()` (R54): the byte at `pc` is the high one. -/
def fetch : Exec Word := do
  let p ← readState (fun s => s.pc.toNat)
  let hi ← memRead p
  let lo ← memRead (p + 1)
  pure (joinWord hi lo)

end Sys2Proof.Machine
end

