-- ==== Sys2Proof/Machine/Operands.lean ====
section
/-! DEFINITION. Every operand form of the instructions: registers Vx and Vy, memory at `I` plus an offset (the only
addressing mode, spec/42_index_memory.md), the key index, the sprite anchor and the decimal digits. Immediates NN, NNN
and N are fields of the instruction, zero-extended by `toNat` (spec/30_encoding.md R71). -/

namespace Sys2Proof.Machine

/-- Read Vx. -/
def readVx (x : Nibble) : Exec Byte := readReg x.toNat

/-- Write Vx. -/
def writeVx (x : Nibble) (b : Byte) : Exec Unit := writeReg x.toNat b

/-- The address that `I` bases, as a natural: the sums on it do not wrap (R51, R134). -/
def readIndex : Exec Nat := readState (fun s => s.index.toNat)

/-- The key that the value of Vx names; a value >= 16 raises KeyIndexOutOfRange (R111, D14). -/
def readKeyIndex (x : Nibble) : Exec (Fin 16) := do
  let k ← readVx x
  if h : k.toNat < 16 then pure ⟨k.toNat, h⟩ else raise (.keyIndexOutOfRange k.toNat)

/-- The key flag of the key that Vx names, at the moment of the step (R111). -/
def readKey (x : Nibble) : Exec Bool := do
  let k ← readKeyIndex x
  readState (fun s => s.key k)

/-- The anchor column: `x[X] mod 64` (R162, C5). -/
def anchorColumn (b : Byte) : Nat := b.toNat % 64

/-- The anchor row: `x[Y] mod 32` (R162, C5). -/
def anchorRow (b : Byte) : Nat := b.toNat % 32

/-- Hundreds digit (R144). -/
def hundreds (b : Byte) : Byte := BitVec.ofNat 8 (b.toNat / 100)

/-- Tens digit (R144). -/
def tens (b : Byte) : Byte := BitVec.ofNat 8 (b.toNat / 10 % 10)

/-- Ones digit (R144). -/
def ones (b : Byte) : Byte := BitVec.ofNat 8 (b.toNat % 10)

/-- Bit `k` of a sprite byte; column offset `j` is bit `7 - j` (R160, D5). -/
def spriteBit (b : Byte) (k : Nat) : Bool := b.getLsbD k

end Sys2Proof.Machine
end

