-- ==== Sys2Proof/Machine/Alu.lean ====
section
/-! DEFINITION. Register arithmetic (spec/41_alu.md R120–R134). -/

namespace Sys2Proof.Machine

/-- The flag write of R120, after the result; nothing where the operation writes no flag. -/
def writeFlag : Option Byte → Exec Unit
  | none => pure ()
  | some f => writeVx vf f

/-- R120: operands first, then the result into Vx, then the flag into VF, then `Advance(2)`; so with X = 15 the flag
wins (D2). Log entry 15: unsafe. An operation that does not use `a` is not affected by its read. -/
def aluStep (op : AluOp) (x y : Nibble) : Exec Unit := do
  let a ← readVx x
  let b ← readVx y
  writeVx x (aluResult op a b)
  writeFlag (aluFlag op a b)
  advance 2

/-- R122. -/
def execSetImm (x : Nibble) (nn : Byte) (s : State) : Result :=
  finish (do
    writeVx x nn
    advance 2) s

/-- R123: wraps and writes no flag (D3). -/
def execAddImm (x : Nibble) (nn : Byte) (s : State) : Result :=
  finish (do
    let a ← readVx x
    writeVx x (a + nn)
    advance 2) s

/-- R124. -/
def execSet (x y : Nibble) (s : State) : Result := finish (aluStep .set x y) s

/-- R125. -/
def execOr (x y : Nibble) (s : State) : Result := finish (aluStep .or x y) s

/-- R126. -/
def execAnd (x y : Nibble) (s : State) : Result := finish (aluStep .and x y) s

/-- R127. -/
def execXor (x y : Nibble) (s : State) : Result := finish (aluStep .xor x y) s

/-- R128. -/
def execAdd (x y : Nibble) (s : State) : Result := finish (aluStep .add x y) s

/-- R129. -/
def execSub (x y : Nibble) (s : State) : Result := finish (aluStep .sub x y) s

/-- R130: the source is Vy. -/
def execShr (x y : Nibble) (s : State) : Result := finish (aluStep .shr x y) s

/-- R131, D4. -/
def execSubN (x y : Nibble) (s : State) : Result := finish (aluStep .subN x y) s

/-- R132: the source is Vy. -/
def execShl (x y : Nibble) (s : State) : Result := finish (aluStep .shl x y) s

/-- R133: exactly one draw, masked. -/
def execRandom (x : Nibble) (nn : Byte) (s : State) : Result :=
  finish (do
    let r ← rand
    writeVx x (r &&& nn)
    advance 2) s

end Sys2Proof.Machine
end

