-- ==== Sys2Proof/Machine/ControlFlow.lean ====
section
/-! DEFINITION. Control transfer, skips and the Unknown fallback (spec/40_control_flow.md R102–R113). -/

namespace Sys2Proof.Machine

/-- R102, D9: advances and emits nothing. Log entry 29: unsafe. -/
def execSys (_nnn : Addr) (s : State) : Result := finish (advance 2) s

/-- R103. -/
def execRet (s : State) : Result :=
  finish (do
    let t ← popReturn
    jumpTo t) s

/-- R104. -/
def execJump (nnn : Addr) (s : State) : Result := finish (jumpTo nnn.toNat) s

/-- R105. -/
def execCall (nnn : Addr) (s : State) : Result :=
  finish (do
    let p ← readState (fun s => s.pc.toNat)
    pushReturn (p + 2)
    jumpTo nnn.toNat) s

/-- `if cond then Advance(4) else Advance(2)` (R106–R112). -/
def skipIf (cond : Bool) : Exec Unit := if cond then advance 4 else advance 2

/-- R106. -/
def execSkipEqImm (x : Nibble) (nn : Byte) (s : State) : Result :=
  finish (do
    let a ← readVx x
    skipIf (a == nn)) s

/-- R107. -/
def execSkipNeImm (x : Nibble) (nn : Byte) (s : State) : Result :=
  finish (do
    let a ← readVx x
    skipIf (a != nn)) s

/-- R108. -/
def execSkipEq (x y : Nibble) (s : State) : Result :=
  finish (do
    let a ← readVx x
    let b ← readVx y
    skipIf (a == b)) s

/-- R109. -/
def execSkipNe (x y : Nibble) (s : State) : Result :=
  finish (do
    let a ← readVx x
    let b ← readVx y
    skipIf (a != b)) s

/-- The register whose value BNNN adds, by BNNN_MODE (R110, D10): V0, or Vx with X = w[11:8]; `none` under REFUSE.
Log entry 6. -/
def jumpOffsetReg (m : BnnnMode) (nnn : Addr) : Option Nibble :=
  match m with
  | .v0 => some 0x0#4
  | .vx => some (nnn.extractLsb' 8 4)
  | .refuse => none

/-- R110. -/
def execJumpOffset (nnn : Addr) (s : State) : Result :=
  finish (do
    let m ← readState (fun s => s.params.bnnnMode)
    match jumpOffsetReg m nnn with
    | some x => do
      let a ← readVx x
      jumpTo (nnn.toNat + a.toNat)
    | none => refuse (.jumpOffsetMode nnn)) s

/-- R111. -/
def execSkipKey (x : Nibble) (s : State) : Result :=
  finish (do
    let down ← readKey x
    skipIf down) s

/-- R112. -/
def execSkipNotKey (x : Nibble) (s : State) : Result :=
  finish (do
    let down ← readKey x
    skipIf (!down)) s

/-- R113: logged by the event, otherwise a no-op (R204). -/
def execUnknown (w : Word) (s : State) : Result :=
  finish (do
    modifyState (fun s => s.emit (.unknownOpcode w))
    advance 2) s

end Sys2Proof.Machine
end

