-- ==== Sys2Proof/Machine/Display.lean ====
section
/-! DEFINITION. The display instructions (spec/43_display.md R160–R162). -/

namespace Sys2Proof.Machine

/-- R161: every pixel is unset; the dirty flag is left as it was. -/
def execClear (s : State) : Result :=
  finish (do
    modifyState (fun s => s.setDisp (Vector.replicate 32 (Vector.replicate 64 false)))
    advance 2) s

/-- The sprite reads of R162: `n` bytes from `a` on, each checked, before anything is drawn (D6). -/
def readSprite : Nat → Nat → Exec (List Byte)
  | _, 0 => pure []
  | a, n + 1 => do
    let b ← memRead a
    let bs ← readSprite (a + 1) n
    pure (b :: bs)

/-- One set sprite bit on one pixel (R162): the pixel flips, the display is dirty, a pixel that was set sets VF. -/
def flipPixel (c : Fin 64) (r : Fin 32) (s : State) : State :=
  if s.pixel c r then ((s.setPixel c r (!s.pixel c r)).setDirty true).setReg vf 0x01#8
  else (s.setPixel c r (!s.pixel c r)).setDirty true

/-- The inner loop of R162, with `k` columns to go: offset `j = 8 - k` shows bit `7 - j = k - 1` (R160, D5: log entry
14, unsafe) at column `c0 + j`; it ends at the right edge. -/
def drawColumns (b : Byte) (c0 : Nat) (r : Fin 32) : Nat → State → State
  | 0, s => s
  | k + 1, s =>
    if h : c0 + (7 - k) < 64 then
      drawColumns b c0 r k (if spriteBit b k then flipPixel ⟨c0 + (7 - k), h⟩ r s else s)
    else s

/-- The outer loop of R162, from row `r` on; it ends at the bottom edge. -/
def drawRows (c0 : Nat) : Nat → List Byte → State → State
  | _, [], s => s
  | r, b :: bs, s =>
    if h : r < 32 then drawRows c0 (r + 1) bs (drawColumns b c0 ⟨r, h⟩ 8 s) else s

/-- R162: Vx and Vy are read, then all the bytes, then VF is cleared, then the sprite is drawn. -/
def execDraw (x y n : Nibble) (s : State) : Result :=
  finish (do
    let a ← readVx x
    let b ← readVx y
    let i ← readIndex
    let bytes ← readSprite i n.toNat
    writeVx vf 0x00#8
    modifyState (drawRows (anchorColumn a) (anchorRow b) bytes)
    advance 2) s

end Sys2Proof.Machine
end

