-- ==== Sys2Proof/Machine/IndexMemory.lean ====
section
/-! DEFINITION. The index register and the memory instructions (spec/42_index_memory.md R140–R146). -/

namespace Sys2Proof.Machine

/-- R141. -/
def execSetIndex (nnn : Addr) (s : State) : Result :=
  finish (do
    setI nnn.toNat
    advance 2) s

/-- R142: the sum does not wrap, VF is not touched. -/
def execAddIndex (x : Nibble) (s : State) : Result :=
  finish (do
    let a ← readVx x
    let i ← readIndex
    setI (i + a.toNat)
    advance 2) s

/-- R143: the whole value of Vx times FONT_BASE, exact (D13). Log entry 16: unsafe. -/
def execFont (x : Nibble) (s : State) : Result :=
  finish (do
    let d ← readVx x
    let base ← readState State.fontBaseValue
    setI (d.toNat * base)
    advance 2) s

/-- R144: three writes in ascending order, each checked when made; `I` stays. -/
def execBcd (x : Nibble) (s : State) : Result :=
  finish (do
    let b ← readVx x
    let i ← readIndex
    memWrite i (hundreds b)
    memWrite (i + 1) (tens b)
    memWrite (i + 2) (ones b)
    advance 2) s

/-- The loop of R145: `n` registers from number `i` on, register `i` to `base + i`. -/
def storeRegs (base : Nat) : Nat → Nat → Exec Unit
  | 0, _ => pure ()
  | n + 1, i => do
    let b ← readReg i
    memWrite (base + i) b
    storeRegs base n (i + 1)

/-- R145: V0..Vx to memory, then `I` moves past the last byte. -/
def execStore (x : Nibble) (s : State) : Result :=
  finish (do
    let i ← readIndex
    storeRegs i (x.toNat + 1) 0
    setI (i + x.toNat + 1)
    advance 2) s

/-- The loop of R146: `n` registers from number `i` on, register `i` from `base + i`. -/
def restoreRegs (base : Nat) : Nat → Nat → Exec Unit
  | 0, _ => pure ()
  | n + 1, i => do
    let b ← memRead (base + i)
    writeReg i b
    restoreRegs base n (i + 1)

/-- R146: V0..Vx from memory, then `I` moves past the last byte. -/
def execRestore (x : Nibble) (s : State) : Result :=
  finish (do
    let i ← readIndex
    restoreRegs i (x.toNat + 1) 0
    setI (i + x.toNat + 1)
    advance 2) s

end Sys2Proof.Machine
end

