-- ==== Sys2Proof/Machine/TimersInput.lean ====
section
/-! DEFINITION. The timer instructions and GetKey (spec/44_timers_input.md R170–R173). -/

namespace Sys2Proof.Machine

/-- R170. -/
def execGetDelay (x : Nibble) (s : State) : Result :=
  finish (do
    let t ← readState (fun s => s.dt)
    writeVx x t
    advance 2) s

/-- R171. -/
def execSetDelay (x : Nibble) (s : State) : Result :=
  finish (do
    let a ← readVx x
    modifyState (fun s => s.setDt a)
    advance 2) s

/-- R172: no event, whatever the value (D20). -/
def execSetSound (x : Nibble) (s : State) : Result :=
  finish (do
    let a ← readVx x
    modifyState (fun s => s.setSt a)
    advance 2) s

/-- R173: in Idle the wait begins and `pc` stays; in Released(k) it ends. In Paused and Pressed no step is enabled
(R176), so nothing happens there. Log entry 12: safe. -/
def execGetKey (x : Nibble) (s : State) : Result :=
  finish (do
    let i ← readState (fun s => s.istate)
    match i with
    | .idle => modifyState (fun s => s.setIstate .paused)
    | .released k => do
      writeVx x (BitVec.ofNat 8 k.val)
      modifyState (fun s => s.setIstate .idle)
      advance 2
    | .paused => pure ()
    | .pressed _ => pure ()) s

end Sys2Proof.Machine
end

