-- ==== Sys2Proof/Machine/Transactions.lean ====
section
/-! DEFINITION. The transactions other than `step`: the loader (spec/20_memory.md R59, R60), the key events and the
Input State Machine (spec/44_timers_input.md R174, R175), the tick (spec/60_exceptions.md R208, R210), the rendering
hand-off (R212) and quit (R213). -/

namespace Sys2Proof.Machine

/-- What a successful load records (R60) and, after the second one, the rest of the boot (R241): the first load is the
font, the second the cartridge, and the cartridge's base becomes `pc`. Log entry 4. -/
def recordBase (addr : Nat) (s : State) : State :=
  if s.fontBase.isNone then s.setFontBase (some (BitVec.ofNat 12 addr))
  else (s.setCartBase (some (BitVec.ofNat 12 addr))).setPc (BitVec.ofNat 16 addr)

/-- `load(addr, bytes)` (R59, C1): all or nothing. A failed load ends the boot (R60): the fault is taken. Log
entry 5. -/
def load (addr : Nat) (bytes : List Byte) : Exec Unit := fun s =>
  if 4096 ≤ addr then .error (.fault (.memoryOverflow addr)) s
  else if 4096 < addr + bytes.length then .error (.fault (.memoryOverflow (addr + bytes.length))) s
  else .ok () (recordBase addr (s.setMem (Memory.writeBytes s.mem addr bytes)))

/-- The state machine on `key_press(k)` (R174). -/
def istateAfterPress (k : Fin 16) : IState → IState
  | .idle => .idle
  | .paused => .pressed k
  | .pressed j => .pressed j
  | .released j => .released j

/-- The state machine on `key_release(k)` (R174). -/
def istateAfterRelease (k : Fin 16) : IState → IState
  | .idle => .idle
  | .paused => .paused
  | .pressed j => if j = k then .released k else .pressed j
  | .released j => .released j

/-- `key_press(k)`: the flag and the state machine, in one transaction (R174, R175). -/
def keyPress (k : Fin 16) (s : State) : State :=
  (s.setKeys (s.keys.set k.val true)).setIstate (istateAfterPress k s.istate)

/-- `key_release(k)` (R174, R175). -/
def keyRelease (k : Fin 16) (s : State) : State :=
  (s.setKeys (s.keys.set k.val false)).setIstate (istateAfterRelease k s.istate)

/-- One decrement, floored at 0 (R208). -/
def countDown (b : Byte) : Byte := if b = 0x00#8 then 0x00#8 else b - 0x01#8

/-- `Tick()` (R208), with the sound-zero signal when ST goes from 1 to 0 (R210). -/
def tick (s : State) : State :=
  let t := (s.setDt (countDown s.dt)).setSt (countDown s.st)
  if s.st = 0x01#8 then t.emit .soundZero else t

/-- `render_ack(ok)` (R212): success clears the dirty flag, failure is the fault RenderFailure. -/
def renderAck (ok : Bool) : Exec Unit := if ok then modifyState (fun s => s.setDirty false) else raise .renderFailure

/-- `quit` (R213). -/
def quit (s : State) : State := s.setRun .stopped

end Sys2Proof.Machine
end

