-- ==== Sys2Proof/Machine/Engine.lean ====
section
/-! DEFINITION. One engine step (spec/40_control_flow.md R100), the transactions with their enabling conditions
(spec/10_state.md R38) and the one the host issues next. -/

namespace Sys2Proof.Machine

/-- Whether the Input State Machine lets a step run: Idle or Released (R176). -/
def IState.stepAllowed : IState → Bool
  | .idle => true
  | .paused => false
  | .pressed _ => false
  | .released _ => true

/-- Whether the resume of a GetKey is due. -/
def IState.isReleased : IState → Bool
  | .idle => false
  | .paused => false
  | .pressed _ => false
  | .released _ => true

/-- What follows the fetch of `w`, in the order of R203: the refusal of an ambiguous word (R83), InputStateInvariant
(R177), then the operation. -/
def dispatchWord (w : Word) (s : State) : Result :=
  if s.params.policy = .refuse ∧ ambiguous w = true then .refused (.ambiguousWord w)
  else if s.istate.isReleased = true ∧ isGetKey (decode w) = false then .next (takeFault (.inputStateInvariant w) s)
  else exec (decode w) s

/-- `Step()` when it is enabled (R100). -/
def engineStep (s : State) : Result :=
  match fetch s with
  | .ok w t => dispatchWord w t
  | .error (.fault f) t => .next (takeFault f t)
  | .error (.refuse r) _ => .refused r

/-- When each transaction is enabled in a Running machine (R38): loads before the run loop starts, a step after it has
started (R241) and only in Idle or Released (R176), the rest always. Log entry 4. -/
def enabled (t : Transaction) (s : State) : Bool :=
  match t with
  | .load _ _ => !s.booted
  | .step => s.booted && s.istate.stepAllowed
  | .keyPress _ => true
  | .keyRelease _ => true
  | .tick => true
  | .renderAck _ => true
  | .quit => true

/-- The effect of an enabled transaction. -/
def perform (t : Transaction) (s : State) : Result :=
  match t with
  | .load addr bytes => finish (load addr bytes) s
  | .step => engineStep s
  | .keyPress k => .next (keyPress k s)
  | .keyRelease k => .next (keyRelease k s)
  | .tick => .next (tick s)
  | .renderAck ok => finish (renderAck ok) s
  | .quit => .next (quit s)

/-- One transaction. One that is not enabled has no effect (R38, D27; log entry 2). A machine that is Halted(F) admits
none, and answers with its fault (R201; log entry 1). -/
def transact (t : Transaction) (s : State) : Result :=
  match s.run with
  | .halted f => .fault f
  | .stopped => .next s
  | .running => if enabled t s then perform t s else .next s

/-- What an endless schedule issues first, and the schedule after it (R243). -/
def takeOnward (o : Onward) : Transaction × Onward :=
  match o with
  | .repeating t [] => (t, .repeating t [])
  | .repeating t (u :: us) => (t, .repeating u (us ++ [t]))
  | .free n => (Config.hostTransaction n, .free (n + 1))

/-- The transaction the host issues next, and the state without it: the head of the script, or, when the script is
empty, the first of the endless schedule (R243, D18). Log entry 3. -/
def nextTransaction (s : State) : Transaction × State :=
  match s.script with
  | [] => ((takeOnward s.onward).1, s.setOnward (takeOnward s.onward).2)
  | t :: rest => (t, s.setScript rest)

/-- Where `withFetchWord` puts an instruction: at `pc`, or at 0 where its second byte would lie outside memory. -/
def fetchPlace (s : State) : Nat := if s.pc.toNat + 1 < 4096 then s.pc.toNat else 0

/-- A state that runs the word `w` next: it stands for the boot (R241) of a machine whose cartridge holds `w` at the
place the next step fetches from, with a host that issues `step` and nothing else. Log entry 27. -/
def placeWord (s : State) (w : Word) : State :=
  let p := fetchPlace s
  let s := s.setMem (Memory.writeBytes s.mem p [highByte w, lowByte w])
  let s := s.setPc (BitVec.ofNat 16 p)
  let s := s.setFontBase (some (s.fontBase.getD 0x000#12))
  let s := s.setCartBase (some (s.cartBase.getD (BitVec.ofNat 12 p)))
  (((s.setRun .running).setIstate .idle).setScript []).setOnward (.repeating .step [])

end Sys2Proof.Machine
end

