-- ==== Sys2Proof/Machine/Step.lean ====
section
/-! DEFINITION. One step of the machine: the next transaction of the host's schedule (spec/10_state.md R38,
spec/70_reset_and_hazards.md R243). -/

namespace Sys2Proof.Machine

/-- One transaction of the machine. -/
def step (s : State) : Host.Outcome State Fault Refusal :=
  transact (nextTransaction s).1 (nextTransaction s).2

/-- `s` with the instruction word `w` where `step` fetches next, booted and running. -/
def State.withFetchWord (s : State) (_nbits w : Nat) : State := placeWord s (BitVec.ofNat 16 w)

end Sys2Proof.Machine
end

