-- ==== Sys2Proof/Safety.lean ====
section
/-! DEFINITION. What counts as a good state and as an end of a run (spec/10_state.md R41, spec/70_reset_and_hazards.md
R244), in the terms that statements use. -/

namespace Sys2Proof.Machine

/-- The word that memory holds at `pc`, when both its bytes exist (R54). -/
def wordAt (s : State) : Word := joinWord (Memory.read s.mem s.pc.toNat) (Memory.read s.mem (s.pc.toNat + 1))

/-- Both bytes of the word at `pc` exist: a fetch does not fault (R54). -/
abbrev CanFetch (s : State) : Prop := s.pc.toNat + 1 < 4096

/-- The conditions a run can be in after a transaction (R244). -/
inductive RunCondition where
  /-- `run = Halted(F)`: a bad end. -/
  | faulted
  /-- `run = Stopped`. -/
  | stopped
  /-- Running, Idle, and the word at `pc` is a Jump to `pc`: the spec's successful end (D31). -/
  | parked
  /-- `istate` is Paused or Pressed. -/
  | waiting
  /-- Any other state. -/
  | running
  deriving DecidableEq, Repr

/-- The word at `pc` is `0x1000 + pc`, a Jump to its own address (R244). -/
def atSelfJump (s : State) : Bool :=
  decide (CanFetch s) && (wordAt s).toNat == 0x1000 + s.pc.toNat

/-- The condition of a state (R244). -/
def condition (s : State) : RunCondition :=
  match s.run with
  | .halted _ => .faulted
  | .stopped => .stopped
  | .running =>
    match s.istate with
    | .paused => .waiting
    | .pressed _ => .waiting
    | .released _ => .running
    | .idle => if atSelfJump s then .parked else .running

/-- Every stack entry is an address (R26, R41). -/
def stackOk (s : State) : Bool := s.stack.all fun t => decide (t.toNat < 4096)

/-- The stack is within STACK_DEPTH where that is finite (R105, D24). -/
def depthOk (s : State) : Bool :=
  match s.params.stackDepth with
  | none => true
  | some d => decide (s.stack.length ≤ d)

/-- While a key wait goes on, the run loop has started and the word at `pc` is the GetKey that began it (R41, R177). -/
def waitOk (s : State) : Bool :=
  match s.istate with
  | .idle => true
  | .paused => s.booted && decide (CanFetch s) && isGetKey (decode (wordAt s))
  | .pressed _ => s.booted && decide (CanFetch s) && isGetKey (decode (wordAt s))
  | .released _ => s.booted && decide (CanFetch s) && isGetKey (decode (wordAt s))

/-- The invariants of R41 that are not already in the types (a register holds 0..255 by its width), with the canonical
form of memory. -/
abbrev Inv (s : State) : Prop :=
  Memory.wf s.mem = true ∧ s.pc.toNat < 4096 ∧ s.index.toNat < 4096 ∧ stackOk s = true ∧ depthOk s = true
    ∧ waitOk s = true

/-- The machine is in its run loop (R38, R241): booted and Running. -/
abbrev InRunLoop (s : State) : Prop := s.run = .running ∧ s.booted = true

end Sys2Proof.Machine
end

