-- ==== Sys2Proof/Certificates/Slice0/Obligations.lean ====
section
/-! DEFINITION. The statements for the provers, from the numbered rules of spec/. An equation
`exec i s = .next (…updates of s…)` says the whole frame too: what no update names is as before, memory byte by byte. -/

namespace Sys2Proof.Machine

/-- `exec i s` makes the effect that leads from `s` to `t`, then runs `Advance(2)` (R101): it completes when `pc + 2`
is inside memory, and otherwise takes ProgramCounterOverflow in `t` (R202). The fault half is the spec's decisions D7 and D8
(log entry 26), so no statement that uses it has basis 'stated'. -/
def RunsTo (i : Instr) (s t : State) : Prop :=
  (s.pc.toNat + 2 < 4096 → exec i s = .next (t.setPc (s.pc + 2#16)))
    ∧ (4096 ≤ s.pc.toNat + 2 → exec i s = .next (takeFault (.programCounterOverflow (s.pc.toNat + 2)) t))

/-- `exec i s` only runs `Advance(k)` (R101; its fault half is D7 and D8, log entry 26). -/
def SkipsBy (k : Nat) (i : Instr) (s : State) : Prop :=
  (s.pc.toNat + k < 4096 → exec i s = .next (s.setPc (s.pc + BitVec.ofNat 16 k)))
    ∧ (4096 ≤ s.pc.toNat + k → exec i s = .next (takeFault (.programCounterOverflow (s.pc.toNat + k)) s))

/-- A flag as the byte 1 or 0. -/
def oneIf (p : Prop) [Decidable p] : Byte := if p then 1#8 else 0#8

/-- Whether the sprite of DXYN, before the step in state `s`, has a set bit on pixel `(c, r)` (R160, R162): the anchor
is taken modulo 64 and 32, the body is not; bit 7 of a row byte is column offset 0. -/
def spriteOn (s : State) (x y n : Nibble) (c : Fin 64) (r : Fin 32) : Bool :=
  decide ((s.reg x).toNat % 64 ≤ c.val ∧ c.val < (s.reg x).toNat % 64 + 8
      ∧ (s.reg y).toNat % 32 ≤ r.val ∧ r.val < (s.reg y).toNat % 32 + n.toNat)
    && (Memory.read s.mem (s.index.toNat + (r.val - (s.reg y).toNat % 32))).getLsbD (7 - (c.val - (s.reg x).toNat % 64))

/-- The write column of the table of R22, flags (R23) among it: whether an instruction may write register `y`. -/
def mayWriteReg (i : Instr) (y : Nibble) : Bool :=
  match i with
  | .setImm x _ => x == y
  | .addImm x _ => x == y
  | .set x _ => x == y
  | .or x _ => x == y || y == vf
  | .and x _ => x == y || y == vf
  | .xor x _ => x == y || y == vf
  | .add x _ => x == y || y == vf
  | .sub x _ => x == y || y == vf
  | .subN x _ => x == y || y == vf
  | .shr x _ => x == y || y == vf
  | .shl x _ => x == y || y == vf
  | .random x _ => x == y
  | .draw _ _ _ => y == vf
  | .getDelay x => x == y
  | .getKey x => x == y
  | .restore x => decide (y.toNat ≤ x.toNat)
  | _ => false

/-- What R200 records of a fault lies outside the range that the check admits. -/
def faultInfoOutOfRange : Fault → Prop
  | .memoryOverflow a => 4096 ≤ a
  | .registerIndexOverflow i => 16 ≤ i
  | .indexRegisterOverflow v => 4096 ≤ v
  | .programCounterOverflow t => 4096 ≤ t
  | .stackUnderflow => True
  | .renderFailure => True
  | .stackOverflow => True
  | .keyIndexOutOfRange k => 16 ≤ k
  | .inputStateInvariant w => isGetKey (decode w) = false

end Sys2Proof.Machine

open Sys2Proof Sys2Proof.Machine

/-! ## Encoding -/

/-- Decode and encode agree: no bit of an encoding is dropped (R71–R80). -/
def Obligations.DecodeEncodeRoundTrip : Prop :=
  ∀ i : Instr, wellFormed i = true → decode (encode i) = i

/-- Decoding is total and gives a well-formed instruction (R72); but for Clear and Return, whose `w[11:8]` is not
examined (R74), the instruction encodes back to the word. -/
def Obligations.DecodeGivesWellFormed : Prop :=
  ∀ w : Word, wellFormed (decode w) = true ∧ (decode w = .clear ∨ decode w = .ret ∨ encode (decode w) = w)

/-- The Unknown words are exactly those that R80 lists (most of the opcode map is the spec's, from general knowledge:
log entry 18). -/
def Obligations.UnknownExactlyTheListedWords : Prop :=
  ∀ w : Word, decode w = .unknown w ↔
    (category w = 0x5#4 ∧ fieldN w ≠ 0#4)
      ∨ (category w = 0x8#4 ∧ ((0x8 ≤ (fieldN w).toNat ∧ (fieldN w).toNat ≤ 0xD) ∨ fieldN w = 0xF#4))
      ∨ (category w = 0x9#4 ∧ fieldN w ≠ 0#4)
      ∨ (category w = 0xE#4 ∧ fieldNN w ≠ 0x9E#8 ∧ fieldNN w ≠ 0xA1#8)
      ∨ (category w = 0xF#4 ∧ ∀ b ∈ [0x07#8, 0x0A#8, 0x15#8, 0x18#8, 0x1E#8, 0x29#8, 0x33#8, 0x55#8, 0x65#8],
          fieldNN w ≠ b)

/-- Decoding picks the matching row of spec/opcode_table.json with the lowest priority number: the instruction's own
row matches the word, and any other row that matches it has a larger number. -/
def Obligations.DecodePicksTableRow : Prop :=
  ∀ w : Word, rowMatches (rowOf (decode w)) w = true
    ∧ ∀ j : Instr, rowMatches (rowOf j) w = true → rowOf j ≠ rowOf (decode w) →
        (rowOf (decode w)).priority < (rowOf j).priority

/-- The decode examples of the source (S1–S6) and words written out from the tables of R73–R79. -/
def Obligations.WrittenOutWordsDecode : Prop :=
  decode 0x00E0#16 = .clear ∧ decode 0x1ABC#16 = .jump 0xABC#12 ∧ decode 0x8AB4#16 = .add 0xA#4 0xB#4
    ∧ decode 0xF30A#16 = .getKey 0x3#4 ∧ decode 0x5670#16 = .skipEq 0x6#4 0x7#4
    ∧ decode 0x5678#16 = .unknown 0x5678#16 ∧ decode 0x00EE#16 = .ret ∧ decode 0x0123#16 = .sys 0x123#12
    ∧ decode 0x3A7F#16 = .skipEqImm 0xA#4 0x7F#8 ∧ decode 0x6F12#16 = .setImm 0xF#4 0x12#8
    ∧ decode 0xA300#16 = .setIndex 0x300#12 ∧ decode 0xD125#16 = .draw 0x1#4 0x2#4 0x5#4
    ∧ decode 0xE7A1#16 = .skipNotKey 0x7#4 ∧ decode 0xF265#16 = .restore 0x2#4

/-- R73: the ten categories that decode every word to one operation (log entry 18: but for category 1 the numbers are
the spec's, from general knowledge). -/
def Obligations.FirstDispatch : Prop :=
  ∀ w : Word,
    (category w = 0x1#4 → decode w = .jump (fieldNNN w)) ∧ (category w = 0x2#4 → decode w = .call (fieldNNN w))
      ∧ (category w = 0x3#4 → decode w = .skipEqImm (fieldX w) (fieldNN w))
      ∧ (category w = 0x4#4 → decode w = .skipNeImm (fieldX w) (fieldNN w))
      ∧ (category w = 0x6#4 → decode w = .setImm (fieldX w) (fieldNN w))
      ∧ (category w = 0x7#4 → decode w = .addImm (fieldX w) (fieldNN w))
      ∧ (category w = 0xA#4 → decode w = .setIndex (fieldNNN w))
      ∧ (category w = 0xB#4 → decode w = .jumpOffset (fieldNNN w))
      ∧ (category w = 0xC#4 → decode w = .random (fieldX w) (fieldNN w))
      ∧ (category w = 0xD#4 → decode w = .draw (fieldX w) (fieldY w) (fieldN w))

/-- R74–R79: the second dispatch, on the bottom nibble or byte (D11; log entry 18). -/
def Obligations.SecondDispatch : Prop :=
  ∀ w : Word,
    (category w = 0x0#4 → decode w =
      if fieldNN w = 0xE0#8 then .clear else if fieldNN w = 0xEE#8 then .ret else .sys (fieldNNN w))
      ∧ (category w = 0x5#4 → decode w = if fieldN w = 0#4 then .skipEq (fieldX w) (fieldY w) else .unknown w)
      ∧ (category w = 0x8#4 → decode w =
        if fieldN w = 0x0#4 then .set (fieldX w) (fieldY w) else if fieldN w = 0x1#4 then .or (fieldX w) (fieldY w)
        else if fieldN w = 0x2#4 then .and (fieldX w) (fieldY w)
        else if fieldN w = 0x3#4 then .xor (fieldX w) (fieldY w)
        else if fieldN w = 0x4#4 then .add (fieldX w) (fieldY w)
        else if fieldN w = 0x5#4 then .sub (fieldX w) (fieldY w)
        else if fieldN w = 0x6#4 then .shr (fieldX w) (fieldY w)
        else if fieldN w = 0x7#4 then .subN (fieldX w) (fieldY w)
        else if fieldN w = 0xE#4 then .shl (fieldX w) (fieldY w) else .unknown w)
      ∧ (category w = 0x9#4 → decode w = if fieldN w = 0#4 then .skipNe (fieldX w) (fieldY w) else .unknown w)
      ∧ (category w = 0xE#4 → decode w =
        if fieldNN w = 0x9E#8 then .skipKey (fieldX w) else if fieldNN w = 0xA1#8 then .skipNotKey (fieldX w)
        else .unknown w)
      ∧ (category w = 0xF#4 → decode w =
        if fieldNN w = 0x07#8 then .getDelay (fieldX w) else if fieldNN w = 0x0A#8 then .getKey (fieldX w)
        else if fieldNN w = 0x15#8 then .setDelay (fieldX w) else if fieldNN w = 0x18#8 then .setSound (fieldX w)
        else if fieldNN w = 0x1E#8 then .addIndex (fieldX w) else if fieldNN w = 0x29#8 then .font (fieldX w)
        else if fieldNN w = 0x33#8 then .bcd (fieldX w) else if fieldNN w = 0x55#8 then .store (fieldX w)
        else if fieldNN w = 0x65#8 then .restore (fieldX w) else .unknown w)

/-- R54, R70: an instruction is two bytes, most significant first; the decoder asked about a word of the opcode table
reads that word. -/
def Obligations.BytesDecodeBigEndian : Prop :=
  (∀ (w : Word) (rest : List Byte),
      decodeBytes (BitVec.ofNat 8 (w.toNat / 256) :: BitVec.ofNat 8 (w.toNat % 256) :: rest) = .ok (decode w, rest))
    ∧ ∀ w : Word, decodeTableWord 16 w.toNat = some (decode w)

/-! ## The step and the transactions -/

/-- R243, D18: a step makes the transaction the host issues next: the head of its script; then, without end, a list
over and over, or a free schedule (log entry 3). Only the schedule moves on. -/
def Obligations.StepTakesNextTransaction : Prop :=
  ∀ s : State,
    (∀ (t : Transaction) (rest : List Transaction), s.script = t :: rest → step s = transact t (s.setScript rest))
      ∧ (∀ (t : Transaction) (ts : List Transaction), s.script = [] → s.onward = .repeating t ts →
        step s = transact t (s.setOnward (match ts with
          | [] => .repeating t []
          | u :: us => .repeating u (us ++ [t]))))
      ∧ ∀ n : Nat, s.script = [] → s.onward = .free n →
        step s = transact (Config.hostTransaction n) (s.setOnward (.free (n + 1)))

/-- A step runs the decoded instruction: when the host issues `step`, which leaves `u` (`s` with its schedule moved on,
StepTakesNextTransaction), the run loop is on, no key wait gates the step, the word is not refused by policy and is the
GetKey that a Released state waits for, step is exec of the decoded instruction. -/
def Obligations.StepRunsDecodedInstruction : Prop :=
  ∀ (s u : State) (i : Instr), nextTransaction s = (.step, u) → InRunLoop s →
    (s.istate = .idle ∨ ∃ k, s.istate = .released k) → CanFetch s → decode (wordAt s) = i →
    (s.params.policy = .decided ∨ ambiguous (wordAt s) = false) → (s.istate = .idle ∨ isGetKey i = true) →
      wellFormed i = true ∧ step s = exec i u

/-- R100, in the order of R203 (D7, D30): fetch, the refusal of an ambiguous word, InputStateInvariant, the operation. -/
def Obligations.StepChecksInOrder : Prop :=
  ∀ s : State, InRunLoop s → (s.istate = .idle ∨ ∃ k, s.istate = .released k) →
    transact .step s =
      if 4096 ≤ s.pc.toNat then .next (takeFault (.memoryOverflow s.pc.toNat) s)
      else if 4096 ≤ s.pc.toNat + 1 then .next (takeFault (.memoryOverflow (s.pc.toNat + 1)) s)
      else if s.params.policy = .refuse ∧ ambiguous (wordAt s) = true then .refused (.ambiguousWord (wordAt s))
      else if s.istate ≠ .idle ∧ isGetKey (decode (wordAt s)) = false then
        .next (takeFault (.inputStateInvariant (wordAt s)) s)
      else exec (decode (wordAt s)) s

/-- R176, D27: a step is enabled in Idle and Released, and has no effect in Paused and Pressed, where ticks, key events and
render acknowledgements still have theirs. -/
def Obligations.KeyWaitGatesSteps : Prop :=
  ∀ s : State, s.run = .running →
    (s.booted = true → (s.istate = .idle ∨ ∃ k, s.istate = .released k) → transact .step s = engineStep s)
      ∧ ((s.istate = .paused ∨ ∃ k, s.istate = .pressed k) → transact .step s = .next s)
      ∧ transact .tick s = .next (tick s)
      ∧ (∀ k, transact (.keyPress k) s = .next (keyPress k s) ∧ transact (.keyRelease k) s = .next (keyRelease k s))
      ∧ ∀ ok, transact (.renderAck ok) s = perform (.renderAck ok) s

/-- The model's reading (log entry 4): the run loop has started when both loads have recorded their base; before that a
step has no effect (R241), and after it a load has none (R38). -/
def Obligations.LoadsOnlyBeforeRunLoop : Prop :=
  ∀ s : State, s.run = .running →
    (s.booted = false → transact .step s = .next s)
      ∧ (s.booted = true → ∀ addr bytes, transact (.load addr bytes) s = .next s)

/-- R201: Halted(F) is never left; in the model (log entry 1) every transaction there answers F itself. -/
def Obligations.HaltedAdmitsNothing : Prop :=
  ∀ (s : State) (f : Fault) (t : Transaction), s.run = .halted f → transact t s = .fault f ∧ step s = .fault f

/-- R213, D26: quit stops the machine and changes nothing else; from Stopped nothing has an effect. -/
def Obligations.QuitStopsTheMachine : Prop :=
  (∀ s : State, s.run = .running → transact .quit s = .next (s.setRun .stopped))
    ∧ ∀ (s : State) (t : Transaction), s.run = .stopped → transact t s = .next s

/-- R201, R202: an instruction that answers a next state either goes on Running, having emitted nothing unless it is
Unknown, or has latched one fault, whose event is the newest, with `pc` still at the instruction (D7; log entries 1, 9,
26). -/
def Obligations.InstructionRunsOnOrLatchesFault : Prop :=
  ∀ (i : Instr) (s t : State), s.run = .running → exec i s = .next t →
    (t.run = .running ∧ t.events = (match i with | .unknown w => .unknownOpcode w :: s.events | _ => s.events))
      ∨ ∃ f, t.run = .halted f ∧ t.pc = s.pc
          ∧ t.events = .halted f :: (match i with | .unknown w => .unknownOpcode w :: s.events | _ => s.events)

/-- R200: what a fault raised by an instruction or a step records is out of the range its check admits. -/
def Obligations.FaultsRecordOutOfRangeValues : Prop :=
  ∀ (s t : State) (f : Fault), s.run = .running → step s = .next t → t.run = .halted f → faultInfoOutOfRange f

/-! ## Registers and memory -/

/-- R20, R21: registers are independent; an access with an index >= 16 raises RegisterIndexOverflow. -/
def Obligations.RegistersIndependentAndChecked : Prop :=
  (∀ (s : State) (x y : Nibble) (b : Byte), (s.setReg x b).reg y = if y = x then b else s.reg y)
    ∧ (∀ (s : State) (x : Nibble) (b : Byte),
        readReg x.toNat s = .ok (s.reg x) s ∧ writeReg x.toNat b s = .ok () (s.setReg x b))
    ∧ ∀ (s : State) (i : Nat) (b : Byte), 16 ≤ i →
        readReg i s = .error (.fault (.registerIndexOverflow i)) s
          ∧ writeReg i b s = .error (.fault (.registerIndexOverflow i)) s

/-- Equal memories are equal data: two memories in canonical form that read alike at every address are the same list
(log entry 11). -/
def Obligations.MemoryDeterminedByReads : Prop :=
  ∀ m m' : Memory, Memory.wf m = true → Memory.wf m' = true →
    (∀ a, a < 4096 → Memory.read m a = Memory.read m' a) → m = m'

/-- R22, R23: an instruction leaves every register that the table does not name for it. -/
def Obligations.RegistersWrittenOnlyAsListed : Prop :=
  ∀ (i : Instr) (s t : State) (y : Nibble), exec i s = .next t → mayWriteReg i y = false → t.reg y = s.reg y

/-- R50: only FX33 and FX55 write memory; FX33 writes at most the three bytes from `I`, FX55 at most the X + 1 bytes
from `I`; every other byte reads as before. -/
def Obligations.MemoryWrittenOnlyByBcdAndStore : Prop :=
  ∀ (i : Instr) (s t : State) (a : Nat), Memory.wf s.mem = true → exec i s = .next t →
    (match i with
      | .bcd _ => a < s.index.toNat ∨ s.index.toNat + 2 < a
      | .store x => a < s.index.toNat ∨ s.index.toNat + x.toNat < a
      | _ => True) →
    Memory.read t.mem a = Memory.read s.mem a

/-- R24, R26, R27, R28: the only writers of `I`, of the stack, of DT and of ST. -/
def Obligations.SpecialRegisterWriters : Prop :=
  ∀ (i : Instr) (s t : State), exec i s = .next t →
    ((match i with
        | .setIndex _ => False | .addIndex _ => False | .font _ => False | .store _ => False | .restore _ => False
        | _ => True) → t.index = s.index)
      ∧ ((match i with | .call _ => False | .ret => False | _ => True) → t.stack = s.stack)
      ∧ ((match i with | .setDelay _ => False | _ => True) → t.dt = s.dt)
      ∧ ((match i with | .setSound _ => False | _ => True) → t.st = s.st)

/-- R29, R30: only 00E0 and DXYN write the display, only DXYN sets the dirty flag, and no instruction clears it. -/
def Obligations.DisplayWriters : Prop :=
  ∀ (i : Instr) (s t : State), exec i s = .next t →
    ((match i with | .clear => False | .draw _ _ _ => False | _ => True) → t.disp = s.disp)
      ∧ ((match i with | .draw _ _ _ => False | _ => True) → t.dirty = s.dirty)
      ∧ (s.dirty = true → t.dirty = true)

/-- R31, R32, R34, R133: no instruction writes a key flag or a load record, only GetKey writes the input-block state,
only Random draws a byte; the model's parameters and the host's schedule stay. -/
def Obligations.HostStateUntouchedByInstructions : Prop :=
  ∀ (i : Instr) (s t : State), exec i s = .next t →
    t.keys = s.keys ∧ t.fontBase = s.fontBase ∧ t.cartBase = s.cartBase ∧ t.params = s.params ∧ t.script = s.script
      ∧ t.onward = s.onward
      ∧ ((match i with | .getKey _ => False | _ => True) → t.istate = s.istate)
      ∧ t.draws = (match i with | .random _ _ => s.draws + 1 | _ => s.draws)

/-! ## Control flow -/

/-- R102 (D9, log entry 29), R113: Sys only advances; Unknown emits its event and advances. -/
def Obligations.SysAndUnknownOnlyAdvance : Prop :=
  (∀ (nnn : Addr) (s : State), RunsTo (.sys nnn) s s)
    ∧ ∀ (w : Word) (s : State), RunsTo (.unknown w) s (s.emit (.unknownOpcode w))

/-- R103: Return pops the top entry into `pc`; on an empty stack it takes StackUnderflow. An entry outside memory,
which no run has, is popped and then faults (log entry 24). -/
def Obligations.ReturnPopsStack : Prop :=
  ∀ s : State,
    (s.stack = [] → exec .ret s = .next (takeFault .stackUnderflow s))
      ∧ ∀ (t : Word) (rest : List Word), s.stack = t :: rest →
        (t.toNat < 4096 → exec .ret s = .next ((s.setStack rest).setPc t))
          ∧ (4096 ≤ t.toNat → exec .ret s = .next (takeFault (.programCounterOverflow t.toNat) (s.setStack rest)))

/-- R104: Jump sets `pc` to NNN, from every state. -/
def Obligations.JumpGoesToTarget : Prop :=
  ∀ (nnn : Addr) (s : State), exec (.jump nnn) s = .next (s.setPc (nnn.setWidth 16))

/-- R105: Call checks the return address (D8), then STACK_DEPTH (D24, log entry 6), then pushes `pc + 2` and jumps to
NNN. -/
def Obligations.CallPushesReturnAddress : Prop :=
  ∀ (nnn : Addr) (s : State),
    exec (.call nnn) s =
      if 4096 ≤ s.pc.toNat + 2 then .next (takeFault (.programCounterOverflow (s.pc.toNat + 2)) s)
      else if s.params.stackDepth = some s.stack.length then .next (takeFault .stackOverflow s)
      else .next ((s.setStack ((s.pc + 2#16) :: s.stack)).setPc (nnn.setWidth 16))

/-- R106, R107, R108, R109: the skips on an immediate and on two registers advance by 4 when their condition holds and
by 2 otherwise, and change nothing else. -/
def Obligations.CompareSkips : Prop :=
  ∀ (x y : Nibble) (nn : Byte) (s : State),
    SkipsBy (if s.reg x = nn then 4 else 2) (.skipEqImm x nn) s
      ∧ SkipsBy (if s.reg x = nn then 2 else 4) (.skipNeImm x nn) s
      ∧ SkipsBy (if s.reg x = s.reg y then 4 else 2) (.skipEq x y) s
      ∧ SkipsBy (if s.reg x = s.reg y then 2 else 4) (.skipNe x y) s

/-- R110: JumpOffset under each BNNN_MODE (D10, log entry 6); the sum does not wrap. -/
def Obligations.JumpOffsetByMode : Prop :=
  ∀ (nnn : Addr) (s : State),
    (s.params.bnnnMode = .refuse → exec (.jumpOffset nnn) s = .refused (.jumpOffsetMode nnn))
      ∧ ∀ x : Nibble,
        (s.params.bnnnMode = .v0 ∧ x = 0x0#4 ∨ s.params.bnnnMode = .vx ∧ x = nnn.extractLsb' 8 4) →
        (nnn.toNat + (s.reg x).toNat < 4096 →
            exec (.jumpOffset nnn) s = .next (s.setPc (nnn.setWidth 16 + (s.reg x).setWidth 16)))
          ∧ (4096 ≤ nnn.toNat + (s.reg x).toNat →
            exec (.jumpOffset nnn) s
              = .next (takeFault (.programCounterOverflow (nnn.toNat + (s.reg x).toNat)) s))

/-- R111, R112: the skips on a key flag; a key index >= 16 takes KeyIndexOutOfRange (D14, log entry 17). -/
def Obligations.KeySkips : Prop :=
  ∀ (x : Nibble) (s : State),
    (∀ k : Fin 16, (s.reg x).toNat = k.val →
        SkipsBy (if s.key k = true then 4 else 2) (.skipKey x) s
          ∧ SkipsBy (if s.key k = true then 2 else 4) (.skipNotKey x) s)
      ∧ (16 ≤ (s.reg x).toNat →
        exec (.skipKey x) s = .next (takeFault (.keyIndexOutOfRange (s.reg x).toNat) s)
          ∧ exec (.skipNotKey x) s = .next (takeFault (.keyIndexOutOfRange (s.reg x).toNat) s))

/-! ## Register arithmetic -/

/-- R122, R123, R124: the moves and the immediate sum write Vx and no flag (D3). -/
def Obligations.MovesAndImmediateAdd : Prop :=
  ∀ (x y : Nibble) (nn : Byte) (s : State),
    RunsTo (.setImm x nn) s (s.setReg x nn)
      ∧ RunsTo (.addImm x nn) s (s.setReg x (BitVec.ofNat 8 (((s.reg x).toNat + nn.toNat) % 256)))
      ∧ RunsTo (.set x y) s (s.setReg x (s.reg y))

/-- R125, R126, R127: the bitwise operations write Vx, then clear VF (in that order by D2, log entry 15). -/
def Obligations.LogicOpsClearFlag : Prop :=
  ∀ (x y : Nibble) (s : State),
    RunsTo (.or x y) s ((s.setReg x (s.reg x ||| s.reg y)).setReg vf 0#8)
      ∧ RunsTo (.and x y) s ((s.setReg x (s.reg x &&& s.reg y)).setReg vf 0#8)
      ∧ RunsTo (.xor x y) s ((s.setReg x (s.reg x ^^^ s.reg y)).setReg vf 0#8)

/-- R128: Add writes the sum modulo 256, then VF: 1 if the wrapped sum is less than the first operand (in
that order by D2, log entry 15). -/
def Obligations.AddSetsCarry : Prop :=
  ∀ (x y : Nibble) (s : State),
    RunsTo (.add x y) s
      ((s.setReg x (BitVec.ofNat 8 (((s.reg x).toNat + (s.reg y).toNat) % 256))).setReg vf
        (oneIf (((s.reg x).toNat + (s.reg y).toNat) % 256 < (s.reg x).toNat)))

/-- R129, R131: Sub and SubN write the difference modulo 256, then VF: 0 if the result is greater than the minuend
(D2, D4; log entry 15). -/
def Obligations.SubtractionsSetNoBorrow : Prop :=
  ∀ (x y : Nibble) (s : State),
    RunsTo (.sub x y) s
      ((s.setReg x (BitVec.ofNat 8 (((s.reg x).toNat + 256 - (s.reg y).toNat) % 256))).setReg vf
        (oneIf (¬ (s.reg x).toNat < ((s.reg x).toNat + 256 - (s.reg y).toNat) % 256)))
      ∧ RunsTo (.subN x y) s
        ((s.setReg x (BitVec.ofNat 8 (((s.reg y).toNat + 256 - (s.reg x).toNat) % 256))).setReg vf
          (oneIf (¬ (s.reg y).toNat < ((s.reg y).toNat + 256 - (s.reg x).toNat) % 256)))

/-- R130, R132: the shifts take Vy, write Vx, then VF gets the bit shifted out (D2, log entry 15). -/
def Obligations.ShiftsTakeVy : Prop :=
  ∀ (x y : Nibble) (s : State),
    RunsTo (.shr x y) s
      ((s.setReg x (BitVec.ofNat 8 ((s.reg y).toNat / 2))).setReg vf (oneIf ((s.reg y).toNat % 2 = 1)))
      ∧ RunsTo (.shl x y) s
        ((s.setReg x (BitVec.ofNat 8 ((s.reg y).toNat * 2 % 256))).setReg vf (oneIf (128 ≤ (s.reg y).toNat)))

/-- R121: the column "equivalent flag": carry iff the exact sum reaches 256, no borrow iff the minuend is not less. -/
def Obligations.FlagColumnsAgree : Prop :=
  ∀ a b : Byte,
    aluFlag .add a b = some (oneIf (256 ≤ a.toNat + b.toNat)) ∧ aluFlag .sub a b = some (oneIf (b.toNat ≤ a.toNat))
      ∧ aluFlag .subN a b = some (oneIf (a.toNat ≤ b.toNat))
      ∧ aluFlag .shr a b = some (oneIf (b.getLsbD 0 = true)) ∧ aluFlag .shl a b = some (oneIf (b.getLsbD 7 = true))
      ∧ aluFlag .or a b = some 0#8 ∧ aluFlag .and a b = some 0#8 ∧ aluFlag .xor a b = some 0#8
      ∧ aluFlag .set a b = none

/-- R133, D25: exactly one draw, masked with NN; whatever byte the source answers (log entry 7). -/
def Obligations.RandomMasksOneDraw : Prop :=
  ∀ (x : Nibble) (nn : Byte) (s : State),
    RunsTo (.random x nn) s ((s.setDraws (s.draws + 1)).setReg x (Config.randByte s.draws &&& nn))

/-! ## Index register and memory -/

/-- R141, R142: SetIndex loads NNN; AddIndex adds Vx without wrapping and takes IndexRegisterOverflow at 4096. -/
def Obligations.IndexSetAndAdd : Prop :=
  (∀ (nnn : Addr) (s : State), RunsTo (.setIndex nnn) s (s.setIndex (nnn.setWidth 16)))
    ∧ ∀ (x : Nibble) (s : State),
      (s.index.toNat + (s.reg x).toNat < 4096 →
          RunsTo (.addIndex x) s (s.setIndex (BitVec.ofNat 16 (s.index.toNat + (s.reg x).toNat))))
        ∧ (4096 ≤ s.index.toNat + (s.reg x).toNat →
          exec (.addIndex x) s = .next (takeFault (.indexRegisterOverflow (s.index.toNat + (s.reg x).toNat)) s))

/-- R143: Font sets `I` to the whole Vx times FONT_BASE; a product >= 4096 takes IndexRegisterOverflow (D13,
log entry 16). -/
def Obligations.FontMultipliesBase : Prop :=
  ∀ (x : Nibble) (s : State) (base : Addr), s.fontBase = some base →
    ((s.reg x).toNat * base.toNat < 4096 →
        RunsTo (.font x) s (s.setIndex (BitVec.ofNat 16 ((s.reg x).toNat * base.toNat))))
      ∧ (4096 ≤ (s.reg x).toNat * base.toNat →
        exec (.font x) s = .next (takeFault (.indexRegisterOverflow ((s.reg x).toNat * base.toNat)) s))

/-- R144: the three digits at `I`, `I + 1`, `I + 2`, every other byte and `I` as before; at the top of memory the
writes before the first bad address stand. -/
def Obligations.BcdStoresDigits : Prop :=
  ∀ (x : Nibble) (s : State), Memory.wf s.mem = true →
    (s.index.toNat + 2 < 4096 → ∃ m, RunsTo (.bcd x) s (s.setMem m) ∧ Memory.wf m = true ∧
        ∀ a, Memory.read m a =
          if a = s.index.toNat then BitVec.ofNat 8 ((s.reg x).toNat / 100)
          else if a = s.index.toNat + 1 then BitVec.ofNat 8 ((s.reg x).toNat / 10 % 10)
          else if a = s.index.toNat + 2 then BitVec.ofNat 8 ((s.reg x).toNat % 10)
          else Memory.read s.mem a)
      ∧ (s.index.toNat < 4096 → 4096 ≤ s.index.toNat + 2 →
        ∃ m, exec (.bcd x) s = .next (takeFault (.memoryOverflow 4096) (s.setMem m)) ∧ Memory.wf m = true ∧
          ∀ a, Memory.read m a =
            if a = s.index.toNat then BitVec.ofNat 8 ((s.reg x).toNat / 100)
            else if a = s.index.toNat + 1 ∧ a < 4096 then BitVec.ofNat 8 ((s.reg x).toNat / 10 % 10)
            else Memory.read s.mem a)
      ∧ (4096 ≤ s.index.toNat → exec (.bcd x) s = .next (takeFault (.memoryOverflow s.index.toNat) s))

/-- R145: V0..Vx to the X + 1 bytes from `I`, then `I` moves past them; at the top of memory the bytes that fit stand
and `I` stays. -/
def Obligations.StoreWritesRegisters : Prop :=
  ∀ (x : Nibble) (s : State), Memory.wf s.mem = true →
    (s.index.toNat + x.toNat + 1 < 4096 →
        ∃ m, RunsTo (.store x) s ((s.setMem m).setIndex (BitVec.ofNat 16 (s.index.toNat + x.toNat + 1))) ∧
          Memory.wf m = true ∧ ∀ a, Memory.read m a =
            if s.index.toNat ≤ a ∧ a ≤ s.index.toNat + x.toNat then s.reg (BitVec.ofNat 4 (a - s.index.toNat))
            else Memory.read s.mem a)
      ∧ (s.index.toNat + x.toNat + 1 = 4096 →
        ∃ m, exec (.store x) s = .next (takeFault (.indexRegisterOverflow 4096) (s.setMem m)) ∧
          Memory.wf m = true ∧ ∀ a, Memory.read m a =
            if s.index.toNat ≤ a ∧ a ≤ s.index.toNat + x.toNat then s.reg (BitVec.ofNat 4 (a - s.index.toNat))
            else Memory.read s.mem a)
      ∧ (s.index.toNat < 4096 → 4096 < s.index.toNat + x.toNat + 1 →
        ∃ m, exec (.store x) s = .next (takeFault (.memoryOverflow 4096) (s.setMem m)) ∧
          Memory.wf m = true ∧ ∀ a, Memory.read m a =
            if s.index.toNat ≤ a ∧ a < 4096 then s.reg (BitVec.ofNat 4 (a - s.index.toNat))
            else Memory.read s.mem a)
      ∧ (4096 ≤ s.index.toNat → exec (.store x) s = .next (takeFault (.memoryOverflow s.index.toNat) s))

/-- R146: V0..Vx from the X + 1 bytes from `I`, the other registers and memory as before, then `I` moves past them; at
the top of memory the registers loaded before the fault stand and `I` stays. -/
def Obligations.RestoreLoadsRegisters : Prop :=
  ∀ (x : Nibble) (s : State),
    (s.index.toNat + x.toNat + 1 < 4096 →
        ∃ v, RunsTo (.restore x) s ((s.setV v).setIndex (BitVec.ofNat 16 (s.index.toNat + x.toNat + 1))) ∧
          ∀ y, (s.setV v).reg y =
            if y.toNat ≤ x.toNat then Memory.read s.mem (s.index.toNat + y.toNat) else s.reg y)
      ∧ (s.index.toNat + x.toNat + 1 = 4096 →
        ∃ v, exec (.restore x) s = .next (takeFault (.indexRegisterOverflow 4096) (s.setV v)) ∧
          ∀ y, (s.setV v).reg y =
            if y.toNat ≤ x.toNat then Memory.read s.mem (s.index.toNat + y.toNat) else s.reg y)
      ∧ (s.index.toNat < 4096 → 4096 < s.index.toNat + x.toNat + 1 →
        ∃ v, exec (.restore x) s = .next (takeFault (.memoryOverflow 4096) (s.setV v)) ∧
          ∀ y, (s.setV v).reg y =
            if s.index.toNat + y.toNat < 4096 then Memory.read s.mem (s.index.toNat + y.toNat) else s.reg y)
      ∧ (4096 ≤ s.index.toNat → exec (.restore x) s = .next (takeFault (.memoryOverflow s.index.toNat) s))

/-- R145 with R146: what FX55 stored, FX65 from the same `I` loads back, whatever the other registers hold meanwhile. -/
def Obligations.RestoreUndoesStore : Prop :=
  ∀ (x y : Nibble) (s t u : State) (v : Vector Byte 16), Memory.wf s.mem = true → s.run = .running →
    exec (.store x) s = .next t → t.run = .running →
    exec (.restore x) (((t.setV v).setIndex s.index).setPc s.pc) = .next u → y.toNat ≤ x.toNat →
      u.run = .running ∧ u.reg y = s.reg y ∧ u.index = t.index

/-! ## Display -/

/-- R161: every pixel is unset; the dirty flag, VF and everything else but `pc` stay. -/
def Obligations.ClearUnsetsEveryPixel : Prop :=
  ∀ s : State, ∃ d, RunsTo .clear s (s.setDisp d) ∧ ∀ c r, (s.setDisp d).pixel c r = false

/-- R162: when the sprite's bytes are inside memory, exactly the pixels under its set bits flip (the anchor wraps, the
body is clipped), the display is dirty iff it was or one flipped, VF is 1 iff one went from set to unset, else 0 (D5, D6;
log entries 14, 26). -/
def Obligations.DrawFlipsSpritePixels : Prop :=
  ∀ (x y n : Nibble) (s : State), (n = 0#4 ∨ s.index.toNat + n.toNat ≤ 4096) →
    ∃ d b f, RunsTo (.draw x y n) s (((s.setDisp d).setDirty b).setReg vf f)
      ∧ (∀ c r, (s.setDisp d).pixel c r = (s.pixel c r ^^ spriteOn s x y n c r))
      ∧ (b = true ↔ s.dirty = true ∨ ∃ c r, spriteOn s x y n c r = true)
      ∧ ((∃ c r, spriteOn s x y n c r = true ∧ s.pixel c r = true) → f = 1#8)
      ∧ ((¬ ∃ c r, spriteOn s x y n c r = true ∧ s.pixel c r = true) → f = 0#8)

/-- R162, D6: a sprite that reaches past memory takes MemoryOverflow at its first bad address, and nothing else
changes: neither VF nor a pixel. -/
def Obligations.DrawFaultChangesNothing : Prop :=
  ∀ (x y n : Nibble) (s : State), n ≠ 0#4 → 4096 < s.index.toNat + n.toNat →
    exec (.draw x y n) s
      = .next (takeFault (.memoryOverflow (if s.index.toNat < 4096 then 4096 else s.index.toNat)) s)

/-- R162: drawing the same sprite twice at the same place restores the display, and the second draw sets VF when the
first one set a pixel (log entry 30: the spec's remark on VF needs that). -/
def Obligations.DrawTwiceRestoresDisplay : Prop :=
  ∀ (x y n : Nibble) (s t u : State), x ≠ vf → y ≠ vf → s.run = .running → exec (.draw x y n) s = .next t →
    t.run = .running → exec (.draw x y n) (t.setPc s.pc) = .next u →
      (∀ c r, u.pixel c r = s.pixel c r)
        ∧ ((∃ c r, spriteOn s x y n c r = true ∧ s.pixel c r = false) → u.reg vf = 1#8)

/-! ## Timers and input -/

/-- R170, R171, R172: the timer copies, and nothing beyond. -/
def Obligations.TimerInstructionsCopy : Prop :=
  ∀ (x : Nibble) (s : State),
    RunsTo (.getDelay x) s (s.setReg x s.dt) ∧ RunsTo (.setDelay x) s (s.setDt (s.reg x))
      ∧ RunsTo (.setSound x) s (s.setSt (s.reg x))

/-- R173: in Idle GetKey enters Paused and `pc` stays; in Released(k) it writes k into Vx, returns to Idle and
advances (D15). -/
def Obligations.GetKeyWaitsAndResumes : Prop :=
  ∀ (x : Nibble) (s : State),
    (s.istate = .idle → exec (.getKey x) s = .next (s.setIstate .paused))
      ∧ ∀ k : Fin 16, s.istate = .released k →
        RunsTo (.getKey x) s ((s.setReg x (BitVec.ofNat 8 k.val)).setIstate .idle)

/-- R174, R175: a key event sets or clears its own flag, moves the input-block state as the table says, and changes
nothing else. -/
def Obligations.KeyEventsDriveInput : Prop :=
  ∀ (k : Fin 16) (s : State), s.run = .running →
    (∃ keys i, transact (.keyPress k) s = .next ((s.setKeys keys).setIstate i)
        ∧ (∀ j, (s.setKeys keys).key j = if j = k then true else s.key j)
        ∧ i = (match s.istate with
          | .idle => .idle | .paused => .pressed k | .pressed j => .pressed j | .released j => .released j))
      ∧ ∃ keys i, transact (.keyRelease k) s = .next ((s.setKeys keys).setIstate i)
        ∧ (∀ j, (s.setKeys keys).key j = if j = k then false else s.key j)
        ∧ i = (match s.istate with
          | .idle => .idle | .paused => .paused
          | .pressed j => if j = k then .released k else .pressed j | .released j => .released j)

/-- R208, R210: a tick takes 1 from each timer, floored at 0, emits sound_zero exactly when ST goes from 1 to 0, and
touches nothing else. -/
def Obligations.TickCountsDown : Prop :=
  ∀ s : State, s.run = .running →
    transact .tick s = .next
      (((s.setDt (BitVec.ofNat 8 (s.dt.toNat - 1))).setSt (BitVec.ofNat 8 (s.st.toNat - 1))).setEvents
        (if s.st.toNat = 1 then .soundZero :: s.events else s.events))

/-- R212: a good render acknowledgement clears the dirty flag, of a display dirty or clean (the latter is the spec's
decision D32, log entry 33); a bad one takes RenderFailure, the fault being latched as R201 says with nothing else
changed (D7, log entries 1 and 26). -/
def Obligations.RenderAckClearsDirty : Prop :=
  ∀ s : State, s.run = .running →
    transact (.renderAck true) s = .next (s.setDirty false)
      ∧ transact (.renderAck false) s = .next (takeFault .renderFailure s)

/-! ## Loader, boot, the end of a run -/

/-- R59, R60: a load inside memory writes exactly its bytes and records its base (the font first, then the cartridge,
whose base becomes `pc`); any other load takes MemoryOverflow and writes nothing (log entries 4 and 5). -/
def Obligations.LoaderBounds : Prop :=
  ∀ (s : State) (addr : Nat) (bytes : List Byte), s.run = .running → s.booted = false → Memory.wf s.mem = true →
    (addr < 4096 → addr + bytes.length ≤ 4096 →
        ∃ m, transact (.load addr bytes) s = .next
            (if s.fontBase = none then (s.setMem m).setFontBase (some (BitVec.ofNat 12 addr))
             else ((s.setMem m).setCartBase (some (BitVec.ofNat 12 addr))).setPc (BitVec.ofNat 16 addr))
          ∧ Memory.wf m = true ∧ ∀ a, Memory.read m a =
            if addr ≤ a ∧ a < addr + bytes.length then bytes.getD (a - addr) 0#8 else Memory.read s.mem a)
      ∧ (4096 ≤ addr → transact (.load addr bytes) s = .next (takeFault (.memoryOverflow addr) s))
      ∧ (addr < 4096 → 4096 < addr + bytes.length →
        transact (.load addr bytes) s = .next (takeFault (.memoryOverflow (addr + bytes.length)) s))

/-- R241, R242: from reset, the font load and then the cartridge load start the run loop: both bases recorded, `pc` at
the cartridge, everything else as construction left it, memory holding the two images (the later one where they
overlap) and zero elsewhere. -/
def Obligations.BootStartsRunLoop : Prop :=
  ∀ (fa ca : Addr) (fb cb : List Byte), fa.toNat + fb.length ≤ 4096 → ca.toNat + cb.length ≤ 4096 →
    ∃ t m, transact (.load fa.toNat fb) State.reset = .next t
      ∧ transact (.load ca.toNat cb) t = .next
        ((((State.reset.setMem m).setFontBase (some fa)).setCartBase (some ca)).setPc (ca.setWidth 16))
      ∧ ∀ a, Memory.read m a =
        if ca.toNat ≤ a ∧ a < ca.toNat + cb.length then cb.getD (a - ca.toNat) 0#8
        else if fa.toNat ≤ a ∧ a < fa.toNat + fb.length then fb.getD (a - fa.toNat) 0#8 else 0#8

/-- R37: the values after construction (D16 for those the source omits, log entry 19). -/
def Obligations.ResetValues : Prop :=
  (∀ a, Memory.read State.reset.mem a = 0#8) ∧ (∀ x, State.reset.reg x = 0#8) ∧ State.reset.index = 0#16
    ∧ State.reset.pc = 0#16 ∧ State.reset.dt = 0#8 ∧ State.reset.st = 0#8
    ∧ (∀ c r, State.reset.pixel c r = false) ∧ State.reset.dirty = false ∧ State.reset.stack = []
    ∧ (∀ k, State.reset.key k = false) ∧ State.reset.istate = .idle ∧ State.reset.run = .running
    ∧ State.reset.fontBase = none ∧ State.reset.cartBase = none

/-- R244, D31: from a parked state every engine step returns the same state; where the host issues one, a step of the
machine moves the host's schedule on and nothing else. -/
def Obligations.ParkedStepReturnsSame : Prop :=
  ∀ s : State, s.booted = true → condition s = .parked →
    transact .step s = .next s ∧ ∀ u : State, nextTransaction s = (.step, u) → step s = .next u

/-! ## Invariants -/

/-- R41: the invariants hold after construction. -/
def Obligations.InvariantAtReset : Prop := Inv State.reset

/-- R41: every step keeps the invariants: memory canonical, `pc`, `I` and the stack entries below 4096, the stack
within its depth, and the GetKey at `pc` for as long as its wait goes on. -/
def Obligations.StepKeepsInvariant : Prop :=
  ∀ s t : State, Inv s → step s = .next t → Inv t

/-- R21, R103, R177: from a state that meets the invariants no step takes RegisterIndexOverflow or
InputStateInvariant, and no Return takes ProgramCounterOverflow. -/
def Obligations.UnreachableFaultsAreNotTaken : Prop :=
  ∀ s t : State, Inv s → s.run = .running →
    (step s = .next t →
        (∀ i, t.run ≠ .halted (.registerIndexOverflow i)) ∧ ∀ w, t.run ≠ .halted (.inputStateInvariant w))
      ∧ (exec .ret s = .next t → ∀ a, t.run ≠ .halted (.programCounterOverflow a))
end

