-- ==== Sys2Proof/Laws/Decode.lean ====
section
/-! SUPPORT. The word builders of the encoder: their fields (spec/30_encoding.md R71) and what the masks of
spec/opcode_table.json leave of them. -/

namespace Sys2Proof

section
variable (c x y n : Nibble) (nn : Byte) (nnn : Addr)

theorem category_wordNNN : category (wordNNN c nnn) = c :=
  BitVec.eq_of_getLsbD_eq fun i hi => by
    simp only [category, wordNNN, BitVec.getLsbD_extractLsb', BitVec.getLsbD_append]
    interval_cases i <;> simp

theorem fieldNNN_wordNNN : fieldNNN (wordNNN c nnn) = nnn :=
  BitVec.eq_of_getLsbD_eq fun i hi => by
    simp only [fieldNNN, wordNNN, BitVec.getLsbD_extractLsb', BitVec.getLsbD_append]
    interval_cases i <;> simp

theorem fieldNN_wordNNN : fieldNN (wordNNN c nnn) = nnn.extractLsb' 0 8 :=
  BitVec.eq_of_getLsbD_eq fun i hi => by
    simp only [fieldNN, wordNNN, BitVec.getLsbD_extractLsb', BitVec.getLsbD_append]
    interval_cases i <;> simp

theorem category_wordXNN : category (wordXNN c x nn) = c :=
  BitVec.eq_of_getLsbD_eq fun i hi => by
    simp only [category, wordXNN, BitVec.getLsbD_extractLsb', BitVec.getLsbD_append]
    interval_cases i <;> simp

theorem fieldX_wordXNN : fieldX (wordXNN c x nn) = x :=
  BitVec.eq_of_getLsbD_eq fun i hi => by
    simp only [fieldX, wordXNN, BitVec.getLsbD_extractLsb', BitVec.getLsbD_append]
    interval_cases i <;> simp

theorem fieldNN_wordXNN : fieldNN (wordXNN c x nn) = nn :=
  BitVec.eq_of_getLsbD_eq fun i hi => by
    simp only [fieldNN, wordXNN, BitVec.getLsbD_extractLsb', BitVec.getLsbD_append]
    interval_cases i <;> simp

theorem category_wordXYN : category (wordXYN c x y n) = c :=
  BitVec.eq_of_getLsbD_eq fun i hi => by
    simp only [category, wordXYN, BitVec.getLsbD_extractLsb', BitVec.getLsbD_append]
    interval_cases i <;> simp

theorem fieldX_wordXYN : fieldX (wordXYN c x y n) = x :=
  BitVec.eq_of_getLsbD_eq fun i hi => by
    simp only [fieldX, wordXYN, BitVec.getLsbD_extractLsb', BitVec.getLsbD_append]
    interval_cases i <;> simp

theorem fieldY_wordXYN : fieldY (wordXYN c x y n) = y :=
  BitVec.eq_of_getLsbD_eq fun i hi => by
    simp only [fieldY, wordXYN, BitVec.getLsbD_extractLsb', BitVec.getLsbD_append]
    interval_cases i <;> simp

theorem fieldN_wordXYN : fieldN (wordXYN c x y n) = n :=
  BitVec.eq_of_getLsbD_eq fun i hi => by
    simp only [fieldN, wordXYN, BitVec.getLsbD_extractLsb', BitVec.getLsbD_append]
    interval_cases i <;> simp

theorem mask_wordNNN : wordNNN c nnn &&& 0xF000#16 = wordNNN c 0#12 :=
  BitVec.eq_of_getLsbD_eq fun i hi => by
    simp only [wordNNN, BitVec.getLsbD_and, BitVec.getLsbD_append]
    interval_cases i <;> simp

theorem mask_wordXNN : wordXNN c x nn &&& 0xF000#16 = wordXNN c 0#4 0#8 :=
  BitVec.eq_of_getLsbD_eq fun i hi => by
    simp only [wordXNN, BitVec.getLsbD_and, BitVec.getLsbD_append]
    interval_cases i <;> simp

theorem mask_wordXNN_byte : wordXNN c x nn &&& 0xF0FF#16 = wordXNN c 0#4 nn :=
  BitVec.eq_of_getLsbD_eq fun i hi => by
    simp only [wordXNN, BitVec.getLsbD_and, BitVec.getLsbD_append]
    interval_cases i <;> simp

theorem mask_wordXYN : wordXYN c x y n &&& 0xF000#16 = wordXYN c 0#4 0#4 0#4 :=
  BitVec.eq_of_getLsbD_eq fun i hi => by
    simp only [wordXYN, BitVec.getLsbD_and, BitVec.getLsbD_append]
    interval_cases i <;> simp

theorem mask_wordXYN_nibble : wordXYN c x y n &&& 0xF00F#16 = wordXYN c 0#4 0#4 n :=
  BitVec.eq_of_getLsbD_eq fun i hi => by
    simp only [wordXYN, BitVec.getLsbD_and, BitVec.getLsbD_append]
    interval_cases i <;> simp

end

/-- A word is put together from its category and its address field. -/
theorem wordNNN_fields (w : Word) : wordNNN (category w) (fieldNNN w) = w :=
  BitVec.eq_of_getLsbD_eq fun i hi => by
    simp only [wordNNN, category, fieldNNN, BitVec.getLsbD_append, BitVec.getLsbD_extractLsb']
    interval_cases i <;> simp

/-- A word is put together from its category, register and byte fields. -/
theorem wordXNN_fields (w : Word) : wordXNN (category w) (fieldX w) (fieldNN w) = w :=
  BitVec.eq_of_getLsbD_eq fun i hi => by
    simp only [wordXNN, category, fieldX, fieldNN, BitVec.getLsbD_append, BitVec.getLsbD_extractLsb']
    interval_cases i <;> simp

/-- A word is put together from its four nibbles. -/
theorem wordXYN_fields (w : Word) : wordXYN (category w) (fieldX w) (fieldY w) (fieldN w) = w :=
  BitVec.eq_of_getLsbD_eq fun i hi => by
    simp only [wordXYN, category, fieldX, fieldY, fieldN, BitVec.getLsbD_append, BitVec.getLsbD_extractLsb']
    interval_cases i <;> simp

/-- The two bytes of a word join to the word (R54). -/
theorem joinWord_bytes (w : Word) : joinWord (highByte w) (lowByte w) = w :=
  BitVec.eq_of_getLsbD_eq fun i hi => by
    simp only [joinWord, highByte, lowByte, BitVec.getLsbD_append, BitVec.getLsbD_extractLsb']
    interval_cases i <;> simp

end Sys2Proof
end

