-- ==== Sys2Proof/Laws/Memory.lean ====
section
/-! SUPPORT. Memory as data: read after write, and every operation keeps the canonical form (spec/20_memory.md
R51, R52, R59). -/

namespace Sys2Proof.Machine

/-- Nothing below the bound is listed. -/
theorem Memory.read_of_lt {m : Memory} {lo a : Nat} (h : Memory.wfFrom lo m = true) (ha : a < lo) :
    Memory.read m a = Memory.unlisted := by
  induction m generalizing lo with
  | nil => rfl
  | cons c m ih =>
    obtain ⟨b, v⟩ := c
    simp only [Memory.wfFrom, Bool.and_eq_true, decide_eq_true_eq] at h
    obtain ⟨⟨⟨hb, -⟩, -⟩, hm⟩ := h
    rw [Memory.read, if_neg (by omega)]
    exact ih hm (by omega)

/-- The canonical form is the same from a lower bound. -/
theorem Memory.wfFrom_mono {m : Memory} {lo lo' : Nat} (h : Memory.wfFrom lo m = true) (hl : lo' ≤ lo) :
    Memory.wfFrom lo' m = true := by
  cases m with
  | nil => rfl
  | cons c m =>
    obtain ⟨b, v⟩ := c
    simp only [Memory.wfFrom, Bool.and_eq_true, decide_eq_true_eq] at h ⊢
    obtain ⟨⟨⟨hb, h4⟩, hv⟩, hm⟩ := h
    exact ⟨⟨⟨by omega, h4⟩, hv⟩, hm⟩

theorem Memory.read_write_from {m : Memory} {lo : Nat} (h : Memory.wfFrom lo m = true) (a b : Nat) (v : Byte) :
    Memory.read (Memory.write m a v) b = if a = b then v else Memory.read m b := by
  induction m generalizing lo with
  | nil =>
    simp only [Memory.write]
    split <;> rename_i hv <;> by_cases hab : a = b <;> simp [Memory.read, hab, hv]
  | cons c m ih =>
    obtain ⟨c, w⟩ := c
    simp only [Memory.wfFrom, Bool.and_eq_true, decide_eq_true_eq] at h
    obtain ⟨-, hm⟩ := h
    simp only [Memory.write]
    split
    · rename_i hac
      split
      · rename_i hv
        split
        · rename_i hab
          subst hab
          rw [Memory.read, if_neg (by omega), Memory.read_of_lt hm (by omega), hv]
        · rfl
      · simp only [Memory.read]
    · split
      · rename_i hac
        subst hac
        split
        · rename_i hv
          split
          · rename_i hab
            subst hab
            rw [Memory.read_of_lt hm (by omega), hv]
          · rename_i hab
            rw [Memory.read, if_neg hab]
        · simp only [Memory.read]
          split <;> simp_all
      · simp only [Memory.read]
        rw [ih hm]
        split <;> split <;> simp_all

/-- Read after write (R51, R52). -/
theorem Memory.read_write {m : Memory} (h : Memory.wf m = true) (a b : Nat) (v : Byte) :
    Memory.read (Memory.write m a v) b = if a = b then v else Memory.read m b :=
  Memory.read_write_from h a b v

theorem Memory.write_wfFrom {m : Memory} {lo a : Nat} (h : Memory.wfFrom lo m = true) (hl : lo ≤ a) (ha : a < 4096)
    (v : Byte) : Memory.wfFrom lo (Memory.write m a v) = true := by
  induction m generalizing lo with
  | nil =>
    simp only [Memory.write]
    split <;> rename_i hv <;> simp [Memory.wfFrom, hl, ha, hv]
  | cons c m ih =>
    obtain ⟨c, w⟩ := c
    simp only [Memory.wfFrom, Bool.and_eq_true, decide_eq_true_eq, bne_iff_ne, ne_eq] at h
    obtain ⟨⟨⟨hc, hc4⟩, hw⟩, hm⟩ := h
    simp only [Memory.write]
    split
    · split <;> simp [Memory.wfFrom, *]
    · split
      · rename_i hac
        subst hac
        split
        · exact Memory.wfFrom_mono hm (by omega)
        · simp [Memory.wfFrom, *]
      · simp only [Memory.wfFrom, Bool.and_eq_true, decide_eq_true_eq, bne_iff_ne, ne_eq]
        exact ⟨⟨⟨hc, hc4⟩, hw⟩, ih hm (by omega)⟩

/-- A write keeps the canonical form. -/
theorem Memory.write_wf {m : Memory} (h : Memory.wf m = true) {a : Nat} (ha : a < 4096) (v : Byte) :
    Memory.wf (Memory.write m a v) = true :=
  Memory.write_wfFrom h (Nat.zero_le a) ha v

/-- A load keeps the canonical form. -/
theorem Memory.writeBytes_wf {m : Memory} (h : Memory.wf m = true) {a : Nat} {bs : List Byte}
    (ha : a + bs.length ≤ 4096) : Memory.wf (Memory.writeBytes m a bs) = true := by
  induction bs generalizing m a with
  | nil => exact h
  | cons b bs ih =>
    simp only [List.length_cons] at ha
    exact ih (Memory.write_wf h (by omega) b) (by omega)

/-- What a load leaves in memory (R59). -/
theorem Memory.read_writeBytes {m : Memory} (h : Memory.wf m = true) {a : Nat} {bs : List Byte}
    (ha : a + bs.length ≤ 4096) (b : Nat) :
    Memory.read (Memory.writeBytes m a bs) b =
      if a ≤ b ∧ b < a + bs.length then bs.getD (b - a) 0 else Memory.read m b := by
  induction bs generalizing m a with
  | nil =>
    rw [if_neg (by simp)]
    rfl
  | cons c bs ih =>
    simp only [List.length_cons] at ha
    rw [Memory.writeBytes, ih (Memory.write_wf h (by omega) c) (by omega), Memory.read_write h]
    simp only [List.length_cons]
    rcases Nat.lt_trichotomy a b with hab | rfl | hab
    · obtain ⟨k, rfl⟩ : ∃ k, b = a + 1 + k := ⟨b - (a + 1), by omega⟩
      rw [show a + 1 + k - a = k + 1 by omega, show a + 1 + k - (a + 1) = k by omega]
      by_cases hk : k < bs.length
      · rw [if_pos (by omega), if_pos (by omega), List.getD_cons_succ]
      · rw [if_neg (by omega), if_neg (by omega), if_neg (by omega)]
    · rw [if_neg (by omega), if_pos rfl, if_pos (by omega), Nat.sub_self, List.getD_cons_zero]
    · rw [if_neg (by omega), if_neg (by omega), if_neg (by omega)]

/-- Memory after construction has the canonical form (R37). -/
theorem State.reset_mem_wf : Memory.wf State.reset.mem = true := rfl

end Sys2Proof.Machine
end

