-- ==== Sys2Proof/Laws/State.lean ====
section
/-! SUPPORT. What each update of the state leaves and writes, one lemma per field per update, true by `rfl`; so that no
proof unfolds a record update. -/

namespace Sys2Proof.Machine

section
variable (s : State) (v : Vector Byte 16)
@[simp] theorem State.setV_v : (s.setV v).v = v := rfl
@[simp] theorem State.setV_index : (s.setV v).index = s.index := rfl
@[simp] theorem State.setV_pc : (s.setV v).pc = s.pc := rfl
@[simp] theorem State.setV_stack : (s.setV v).stack = s.stack := rfl
@[simp] theorem State.setV_dt : (s.setV v).dt = s.dt := rfl
@[simp] theorem State.setV_st : (s.setV v).st = s.st := rfl
@[simp] theorem State.setV_disp : (s.setV v).disp = s.disp := rfl
@[simp] theorem State.setV_dirty : (s.setV v).dirty = s.dirty := rfl
@[simp] theorem State.setV_keys : (s.setV v).keys = s.keys := rfl
@[simp] theorem State.setV_istate : (s.setV v).istate = s.istate := rfl
@[simp] theorem State.setV_run : (s.setV v).run = s.run := rfl
@[simp] theorem State.setV_fontBase : (s.setV v).fontBase = s.fontBase := rfl
@[simp] theorem State.setV_cartBase : (s.setV v).cartBase = s.cartBase := rfl
@[simp] theorem State.setV_mem : (s.setV v).mem = s.mem := rfl
@[simp] theorem State.setV_params : (s.setV v).params = s.params := rfl
@[simp] theorem State.setV_draws : (s.setV v).draws = s.draws := rfl
@[simp] theorem State.setV_events : (s.setV v).events = s.events := rfl
@[simp] theorem State.setV_script : (s.setV v).script = s.script := rfl
@[simp] theorem State.setV_onward : (s.setV v).onward = s.onward := rfl
@[simp] theorem State.setV_pixel (col : Fin 64) (row : Fin 32) : (s.setV v).pixel col row = s.pixel col row := rfl
@[simp] theorem State.setV_key (j : Fin 16) : (s.setV v).key j = s.key j := rfl
@[simp] theorem State.setV_booted : (s.setV v).booted = s.booted := rfl
end

section
variable (s : State) (i : Word)
@[simp] theorem State.setIndex_v : (s.setIndex i).v = s.v := rfl
@[simp] theorem State.setIndex_index : (s.setIndex i).index = i := rfl
@[simp] theorem State.setIndex_pc : (s.setIndex i).pc = s.pc := rfl
@[simp] theorem State.setIndex_stack : (s.setIndex i).stack = s.stack := rfl
@[simp] theorem State.setIndex_dt : (s.setIndex i).dt = s.dt := rfl
@[simp] theorem State.setIndex_st : (s.setIndex i).st = s.st := rfl
@[simp] theorem State.setIndex_disp : (s.setIndex i).disp = s.disp := rfl
@[simp] theorem State.setIndex_dirty : (s.setIndex i).dirty = s.dirty := rfl
@[simp] theorem State.setIndex_keys : (s.setIndex i).keys = s.keys := rfl
@[simp] theorem State.setIndex_istate : (s.setIndex i).istate = s.istate := rfl
@[simp] theorem State.setIndex_run : (s.setIndex i).run = s.run := rfl
@[simp] theorem State.setIndex_fontBase : (s.setIndex i).fontBase = s.fontBase := rfl
@[simp] theorem State.setIndex_cartBase : (s.setIndex i).cartBase = s.cartBase := rfl
@[simp] theorem State.setIndex_mem : (s.setIndex i).mem = s.mem := rfl
@[simp] theorem State.setIndex_params : (s.setIndex i).params = s.params := rfl
@[simp] theorem State.setIndex_draws : (s.setIndex i).draws = s.draws := rfl
@[simp] theorem State.setIndex_events : (s.setIndex i).events = s.events := rfl
@[simp] theorem State.setIndex_script : (s.setIndex i).script = s.script := rfl
@[simp] theorem State.setIndex_onward : (s.setIndex i).onward = s.onward := rfl
@[simp] theorem State.setIndex_reg (x : Nibble) : (s.setIndex i).reg x = s.reg x := rfl
@[simp] theorem State.setIndex_pixel (col : Fin 64) (row : Fin 32) : (s.setIndex i).pixel col row = s.pixel col row := rfl
@[simp] theorem State.setIndex_key (j : Fin 16) : (s.setIndex i).key j = s.key j := rfl
@[simp] theorem State.setIndex_booted : (s.setIndex i).booted = s.booted := rfl
end

section
variable (s : State) (p : Word)
@[simp] theorem State.setPc_v : (s.setPc p).v = s.v := rfl
@[simp] theorem State.setPc_index : (s.setPc p).index = s.index := rfl
@[simp] theorem State.setPc_pc : (s.setPc p).pc = p := rfl
@[simp] theorem State.setPc_stack : (s.setPc p).stack = s.stack := rfl
@[simp] theorem State.setPc_dt : (s.setPc p).dt = s.dt := rfl
@[simp] theorem State.setPc_st : (s.setPc p).st = s.st := rfl
@[simp] theorem State.setPc_disp : (s.setPc p).disp = s.disp := rfl
@[simp] theorem State.setPc_dirty : (s.setPc p).dirty = s.dirty := rfl
@[simp] theorem State.setPc_keys : (s.setPc p).keys = s.keys := rfl
@[simp] theorem State.setPc_istate : (s.setPc p).istate = s.istate := rfl
@[simp] theorem State.setPc_run : (s.setPc p).run = s.run := rfl
@[simp] theorem State.setPc_fontBase : (s.setPc p).fontBase = s.fontBase := rfl
@[simp] theorem State.setPc_cartBase : (s.setPc p).cartBase = s.cartBase := rfl
@[simp] theorem State.setPc_mem : (s.setPc p).mem = s.mem := rfl
@[simp] theorem State.setPc_params : (s.setPc p).params = s.params := rfl
@[simp] theorem State.setPc_draws : (s.setPc p).draws = s.draws := rfl
@[simp] theorem State.setPc_events : (s.setPc p).events = s.events := rfl
@[simp] theorem State.setPc_script : (s.setPc p).script = s.script := rfl
@[simp] theorem State.setPc_onward : (s.setPc p).onward = s.onward := rfl
@[simp] theorem State.setPc_reg (x : Nibble) : (s.setPc p).reg x = s.reg x := rfl
@[simp] theorem State.setPc_pixel (col : Fin 64) (row : Fin 32) : (s.setPc p).pixel col row = s.pixel col row := rfl
@[simp] theorem State.setPc_key (j : Fin 16) : (s.setPc p).key j = s.key j := rfl
@[simp] theorem State.setPc_booted : (s.setPc p).booted = s.booted := rfl
end

section
variable (s : State) (l : List Word)
@[simp] theorem State.setStack_v : (s.setStack l).v = s.v := rfl
@[simp] theorem State.setStack_index : (s.setStack l).index = s.index := rfl
@[simp] theorem State.setStack_pc : (s.setStack l).pc = s.pc := rfl
@[simp] theorem State.setStack_stack : (s.setStack l).stack = l := rfl
@[simp] theorem State.setStack_dt : (s.setStack l).dt = s.dt := rfl
@[simp] theorem State.setStack_st : (s.setStack l).st = s.st := rfl
@[simp] theorem State.setStack_disp : (s.setStack l).disp = s.disp := rfl
@[simp] theorem State.setStack_dirty : (s.setStack l).dirty = s.dirty := rfl
@[simp] theorem State.setStack_keys : (s.setStack l).keys = s.keys := rfl
@[simp] theorem State.setStack_istate : (s.setStack l).istate = s.istate := rfl
@[simp] theorem State.setStack_run : (s.setStack l).run = s.run := rfl
@[simp] theorem State.setStack_fontBase : (s.setStack l).fontBase = s.fontBase := rfl
@[simp] theorem State.setStack_cartBase : (s.setStack l).cartBase = s.cartBase := rfl
@[simp] theorem State.setStack_mem : (s.setStack l).mem = s.mem := rfl
@[simp] theorem State.setStack_params : (s.setStack l).params = s.params := rfl
@[simp] theorem State.setStack_draws : (s.setStack l).draws = s.draws := rfl
@[simp] theorem State.setStack_events : (s.setStack l).events = s.events := rfl
@[simp] theorem State.setStack_script : (s.setStack l).script = s.script := rfl
@[simp] theorem State.setStack_onward : (s.setStack l).onward = s.onward := rfl
@[simp] theorem State.setStack_reg (x : Nibble) : (s.setStack l).reg x = s.reg x := rfl
@[simp] theorem State.setStack_pixel (col : Fin 64) (row : Fin 32) : (s.setStack l).pixel col row = s.pixel col row := rfl
@[simp] theorem State.setStack_key (j : Fin 16) : (s.setStack l).key j = s.key j := rfl
@[simp] theorem State.setStack_booted : (s.setStack l).booted = s.booted := rfl
end

section
variable (s : State) (b : Byte)
@[simp] theorem State.setDt_v : (s.setDt b).v = s.v := rfl
@[simp] theorem State.setDt_index : (s.setDt b).index = s.index := rfl
@[simp] theorem State.setDt_pc : (s.setDt b).pc = s.pc := rfl
@[simp] theorem State.setDt_stack : (s.setDt b).stack = s.stack := rfl
@[simp] theorem State.setDt_dt : (s.setDt b).dt = b := rfl
@[simp] theorem State.setDt_st : (s.setDt b).st = s.st := rfl
@[simp] theorem State.setDt_disp : (s.setDt b).disp = s.disp := rfl
@[simp] theorem State.setDt_dirty : (s.setDt b).dirty = s.dirty := rfl
@[simp] theorem State.setDt_keys : (s.setDt b).keys = s.keys := rfl
@[simp] theorem State.setDt_istate : (s.setDt b).istate = s.istate := rfl
@[simp] theorem State.setDt_run : (s.setDt b).run = s.run := rfl
@[simp] theorem State.setDt_fontBase : (s.setDt b).fontBase = s.fontBase := rfl
@[simp] theorem State.setDt_cartBase : (s.setDt b).cartBase = s.cartBase := rfl
@[simp] theorem State.setDt_mem : (s.setDt b).mem = s.mem := rfl
@[simp] theorem State.setDt_params : (s.setDt b).params = s.params := rfl
@[simp] theorem State.setDt_draws : (s.setDt b).draws = s.draws := rfl
@[simp] theorem State.setDt_events : (s.setDt b).events = s.events := rfl
@[simp] theorem State.setDt_script : (s.setDt b).script = s.script := rfl
@[simp] theorem State.setDt_onward : (s.setDt b).onward = s.onward := rfl
@[simp] theorem State.setDt_reg (x : Nibble) : (s.setDt b).reg x = s.reg x := rfl
@[simp] theorem State.setDt_pixel (col : Fin 64) (row : Fin 32) : (s.setDt b).pixel col row = s.pixel col row := rfl
@[simp] theorem State.setDt_key (j : Fin 16) : (s.setDt b).key j = s.key j := rfl
@[simp] theorem State.setDt_booted : (s.setDt b).booted = s.booted := rfl
end

section
variable (s : State) (b : Byte)
@[simp] theorem State.setSt_v : (s.setSt b).v = s.v := rfl
@[simp] theorem State.setSt_index : (s.setSt b).index = s.index := rfl
@[simp] theorem State.setSt_pc : (s.setSt b).pc = s.pc := rfl
@[simp] theorem State.setSt_stack : (s.setSt b).stack = s.stack := rfl
@[simp] theorem State.setSt_dt : (s.setSt b).dt = s.dt := rfl
@[simp] theorem State.setSt_st : (s.setSt b).st = b := rfl
@[simp] theorem State.setSt_disp : (s.setSt b).disp = s.disp := rfl
@[simp] theorem State.setSt_dirty : (s.setSt b).dirty = s.dirty := rfl
@[simp] theorem State.setSt_keys : (s.setSt b).keys = s.keys := rfl
@[simp] theorem State.setSt_istate : (s.setSt b).istate = s.istate := rfl
@[simp] theorem State.setSt_run : (s.setSt b).run = s.run := rfl
@[simp] theorem State.setSt_fontBase : (s.setSt b).fontBase = s.fontBase := rfl
@[simp] theorem State.setSt_cartBase : (s.setSt b).cartBase = s.cartBase := rfl
@[simp] theorem State.setSt_mem : (s.setSt b).mem = s.mem := rfl
@[simp] theorem State.setSt_params : (s.setSt b).params = s.params := rfl
@[simp] theorem State.setSt_draws : (s.setSt b).draws = s.draws := rfl
@[simp] theorem State.setSt_events : (s.setSt b).events = s.events := rfl
@[simp] theorem State.setSt_script : (s.setSt b).script = s.script := rfl
@[simp] theorem State.setSt_onward : (s.setSt b).onward = s.onward := rfl
@[simp] theorem State.setSt_reg (x : Nibble) : (s.setSt b).reg x = s.reg x := rfl
@[simp] theorem State.setSt_pixel (col : Fin 64) (row : Fin 32) : (s.setSt b).pixel col row = s.pixel col row := rfl
@[simp] theorem State.setSt_key (j : Fin 16) : (s.setSt b).key j = s.key j := rfl
@[simp] theorem State.setSt_booted : (s.setSt b).booted = s.booted := rfl
end

section
variable (s : State) (d : Display)
@[simp] theorem State.setDisp_v : (s.setDisp d).v = s.v := rfl
@[simp] theorem State.setDisp_index : (s.setDisp d).index = s.index := rfl
@[simp] theorem State.setDisp_pc : (s.setDisp d).pc = s.pc := rfl
@[simp] theorem State.setDisp_stack : (s.setDisp d).stack = s.stack := rfl
@[simp] theorem State.setDisp_dt : (s.setDisp d).dt = s.dt := rfl
@[simp] theorem State.setDisp_st : (s.setDisp d).st = s.st := rfl
@[simp] theorem State.setDisp_disp : (s.setDisp d).disp = d := rfl
@[simp] theorem State.setDisp_dirty : (s.setDisp d).dirty = s.dirty := rfl
@[simp] theorem State.setDisp_keys : (s.setDisp d).keys = s.keys := rfl
@[simp] theorem State.setDisp_istate : (s.setDisp d).istate = s.istate := rfl
@[simp] theorem State.setDisp_run : (s.setDisp d).run = s.run := rfl
@[simp] theorem State.setDisp_fontBase : (s.setDisp d).fontBase = s.fontBase := rfl
@[simp] theorem State.setDisp_cartBase : (s.setDisp d).cartBase = s.cartBase := rfl
@[simp] theorem State.setDisp_mem : (s.setDisp d).mem = s.mem := rfl
@[simp] theorem State.setDisp_params : (s.setDisp d).params = s.params := rfl
@[simp] theorem State.setDisp_draws : (s.setDisp d).draws = s.draws := rfl
@[simp] theorem State.setDisp_events : (s.setDisp d).events = s.events := rfl
@[simp] theorem State.setDisp_script : (s.setDisp d).script = s.script := rfl
@[simp] theorem State.setDisp_onward : (s.setDisp d).onward = s.onward := rfl
@[simp] theorem State.setDisp_reg (x : Nibble) : (s.setDisp d).reg x = s.reg x := rfl
@[simp] theorem State.setDisp_key (j : Fin 16) : (s.setDisp d).key j = s.key j := rfl
@[simp] theorem State.setDisp_booted : (s.setDisp d).booted = s.booted := rfl
end

section
variable (s : State) (b : Bool)
@[simp] theorem State.setDirty_v : (s.setDirty b).v = s.v := rfl
@[simp] theorem State.setDirty_index : (s.setDirty b).index = s.index := rfl
@[simp] theorem State.setDirty_pc : (s.setDirty b).pc = s.pc := rfl
@[simp] theorem State.setDirty_stack : (s.setDirty b).stack = s.stack := rfl
@[simp] theorem State.setDirty_dt : (s.setDirty b).dt = s.dt := rfl
@[simp] theorem State.setDirty_st : (s.setDirty b).st = s.st := rfl
@[simp] theorem State.setDirty_disp : (s.setDirty b).disp = s.disp := rfl
@[simp] theorem State.setDirty_dirty : (s.setDirty b).dirty = b := rfl
@[simp] theorem State.setDirty_keys : (s.setDirty b).keys = s.keys := rfl
@[simp] theorem State.setDirty_istate : (s.setDirty b).istate = s.istate := rfl
@[simp] theorem State.setDirty_run : (s.setDirty b).run = s.run := rfl
@[simp] theorem State.setDirty_fontBase : (s.setDirty b).fontBase = s.fontBase := rfl
@[simp] theorem State.setDirty_cartBase : (s.setDirty b).cartBase = s.cartBase := rfl
@[simp] theorem State.setDirty_mem : (s.setDirty b).mem = s.mem := rfl
@[simp] theorem State.setDirty_params : (s.setDirty b).params = s.params := rfl
@[simp] theorem State.setDirty_draws : (s.setDirty b).draws = s.draws := rfl
@[simp] theorem State.setDirty_events : (s.setDirty b).events = s.events := rfl
@[simp] theorem State.setDirty_script : (s.setDirty b).script = s.script := rfl
@[simp] theorem State.setDirty_onward : (s.setDirty b).onward = s.onward := rfl
@[simp] theorem State.setDirty_reg (x : Nibble) : (s.setDirty b).reg x = s.reg x := rfl
@[simp] theorem State.setDirty_pixel (col : Fin 64) (row : Fin 32) : (s.setDirty b).pixel col row = s.pixel col row := rfl
@[simp] theorem State.setDirty_key (j : Fin 16) : (s.setDirty b).key j = s.key j := rfl
@[simp] theorem State.setDirty_booted : (s.setDirty b).booted = s.booted := rfl
end

section
variable (s : State) (k : Vector Bool 16)
@[simp] theorem State.setKeys_v : (s.setKeys k).v = s.v := rfl
@[simp] theorem State.setKeys_index : (s.setKeys k).index = s.index := rfl
@[simp] theorem State.setKeys_pc : (s.setKeys k).pc = s.pc := rfl
@[simp] theorem State.setKeys_stack : (s.setKeys k).stack = s.stack := rfl
@[simp] theorem State.setKeys_dt : (s.setKeys k).dt = s.dt := rfl
@[simp] theorem State.setKeys_st : (s.setKeys k).st = s.st := rfl
@[simp] theorem State.setKeys_disp : (s.setKeys k).disp = s.disp := rfl
@[simp] theorem State.setKeys_dirty : (s.setKeys k).dirty = s.dirty := rfl
@[simp] theorem State.setKeys_keys : (s.setKeys k).keys = k := rfl
@[simp] theorem State.setKeys_istate : (s.setKeys k).istate = s.istate := rfl
@[simp] theorem State.setKeys_run : (s.setKeys k).run = s.run := rfl
@[simp] theorem State.setKeys_fontBase : (s.setKeys k).fontBase = s.fontBase := rfl
@[simp] theorem State.setKeys_cartBase : (s.setKeys k).cartBase = s.cartBase := rfl
@[simp] theorem State.setKeys_mem : (s.setKeys k).mem = s.mem := rfl
@[simp] theorem State.setKeys_params : (s.setKeys k).params = s.params := rfl
@[simp] theorem State.setKeys_draws : (s.setKeys k).draws = s.draws := rfl
@[simp] theorem State.setKeys_events : (s.setKeys k).events = s.events := rfl
@[simp] theorem State.setKeys_script : (s.setKeys k).script = s.script := rfl
@[simp] theorem State.setKeys_onward : (s.setKeys k).onward = s.onward := rfl
@[simp] theorem State.setKeys_reg (x : Nibble) : (s.setKeys k).reg x = s.reg x := rfl
@[simp] theorem State.setKeys_pixel (col : Fin 64) (row : Fin 32) : (s.setKeys k).pixel col row = s.pixel col row := rfl
@[simp] theorem State.setKeys_booted : (s.setKeys k).booted = s.booted := rfl
end

section
variable (s : State) (i : IState)
@[simp] theorem State.setIstate_v : (s.setIstate i).v = s.v := rfl
@[simp] theorem State.setIstate_index : (s.setIstate i).index = s.index := rfl
@[simp] theorem State.setIstate_pc : (s.setIstate i).pc = s.pc := rfl
@[simp] theorem State.setIstate_stack : (s.setIstate i).stack = s.stack := rfl
@[simp] theorem State.setIstate_dt : (s.setIstate i).dt = s.dt := rfl
@[simp] theorem State.setIstate_st : (s.setIstate i).st = s.st := rfl
@[simp] theorem State.setIstate_disp : (s.setIstate i).disp = s.disp := rfl
@[simp] theorem State.setIstate_dirty : (s.setIstate i).dirty = s.dirty := rfl
@[simp] theorem State.setIstate_keys : (s.setIstate i).keys = s.keys := rfl
@[simp] theorem State.setIstate_istate : (s.setIstate i).istate = i := rfl
@[simp] theorem State.setIstate_run : (s.setIstate i).run = s.run := rfl
@[simp] theorem State.setIstate_fontBase : (s.setIstate i).fontBase = s.fontBase := rfl
@[simp] theorem State.setIstate_cartBase : (s.setIstate i).cartBase = s.cartBase := rfl
@[simp] theorem State.setIstate_mem : (s.setIstate i).mem = s.mem := rfl
@[simp] theorem State.setIstate_params : (s.setIstate i).params = s.params := rfl
@[simp] theorem State.setIstate_draws : (s.setIstate i).draws = s.draws := rfl
@[simp] theorem State.setIstate_events : (s.setIstate i).events = s.events := rfl
@[simp] theorem State.setIstate_script : (s.setIstate i).script = s.script := rfl
@[simp] theorem State.setIstate_onward : (s.setIstate i).onward = s.onward := rfl
@[simp] theorem State.setIstate_reg (x : Nibble) : (s.setIstate i).reg x = s.reg x := rfl
@[simp] theorem State.setIstate_pixel (col : Fin 64) (row : Fin 32) : (s.setIstate i).pixel col row = s.pixel col row := rfl
@[simp] theorem State.setIstate_key (j : Fin 16) : (s.setIstate i).key j = s.key j := rfl
@[simp] theorem State.setIstate_booted : (s.setIstate i).booted = s.booted := rfl
end

section
variable (s : State) (r : RunState)
@[simp] theorem State.setRun_v : (s.setRun r).v = s.v := rfl
@[simp] theorem State.setRun_index : (s.setRun r).index = s.index := rfl
@[simp] theorem State.setRun_pc : (s.setRun r).pc = s.pc := rfl
@[simp] theorem State.setRun_stack : (s.setRun r).stack = s.stack := rfl
@[simp] theorem State.setRun_dt : (s.setRun r).dt = s.dt := rfl
@[simp] theorem State.setRun_st : (s.setRun r).st = s.st := rfl
@[simp] theorem State.setRun_disp : (s.setRun r).disp = s.disp := rfl
@[simp] theorem State.setRun_dirty : (s.setRun r).dirty = s.dirty := rfl
@[simp] theorem State.setRun_keys : (s.setRun r).keys = s.keys := rfl
@[simp] theorem State.setRun_istate : (s.setRun r).istate = s.istate := rfl
@[simp] theorem State.setRun_run : (s.setRun r).run = r := rfl
@[simp] theorem State.setRun_fontBase : (s.setRun r).fontBase = s.fontBase := rfl
@[simp] theorem State.setRun_cartBase : (s.setRun r).cartBase = s.cartBase := rfl
@[simp] theorem State.setRun_mem : (s.setRun r).mem = s.mem := rfl
@[simp] theorem State.setRun_params : (s.setRun r).params = s.params := rfl
@[simp] theorem State.setRun_draws : (s.setRun r).draws = s.draws := rfl
@[simp] theorem State.setRun_events : (s.setRun r).events = s.events := rfl
@[simp] theorem State.setRun_script : (s.setRun r).script = s.script := rfl
@[simp] theorem State.setRun_onward : (s.setRun r).onward = s.onward := rfl
@[simp] theorem State.setRun_reg (x : Nibble) : (s.setRun r).reg x = s.reg x := rfl
@[simp] theorem State.setRun_pixel (col : Fin 64) (row : Fin 32) : (s.setRun r).pixel col row = s.pixel col row := rfl
@[simp] theorem State.setRun_key (j : Fin 16) : (s.setRun r).key j = s.key j := rfl
@[simp] theorem State.setRun_booted : (s.setRun r).booted = s.booted := rfl
end

section
variable (s : State) (b : Option Addr)
@[simp] theorem State.setFontBase_v : (s.setFontBase b).v = s.v := rfl
@[simp] theorem State.setFontBase_index : (s.setFontBase b).index = s.index := rfl
@[simp] theorem State.setFontBase_pc : (s.setFontBase b).pc = s.pc := rfl
@[simp] theorem State.setFontBase_stack : (s.setFontBase b).stack = s.stack := rfl
@[simp] theorem State.setFontBase_dt : (s.setFontBase b).dt = s.dt := rfl
@[simp] theorem State.setFontBase_st : (s.setFontBase b).st = s.st := rfl
@[simp] theorem State.setFontBase_disp : (s.setFontBase b).disp = s.disp := rfl
@[simp] theorem State.setFontBase_dirty : (s.setFontBase b).dirty = s.dirty := rfl
@[simp] theorem State.setFontBase_keys : (s.setFontBase b).keys = s.keys := rfl
@[simp] theorem State.setFontBase_istate : (s.setFontBase b).istate = s.istate := rfl
@[simp] theorem State.setFontBase_run : (s.setFontBase b).run = s.run := rfl
@[simp] theorem State.setFontBase_fontBase : (s.setFontBase b).fontBase = b := rfl
@[simp] theorem State.setFontBase_cartBase : (s.setFontBase b).cartBase = s.cartBase := rfl
@[simp] theorem State.setFontBase_mem : (s.setFontBase b).mem = s.mem := rfl
@[simp] theorem State.setFontBase_params : (s.setFontBase b).params = s.params := rfl
@[simp] theorem State.setFontBase_draws : (s.setFontBase b).draws = s.draws := rfl
@[simp] theorem State.setFontBase_events : (s.setFontBase b).events = s.events := rfl
@[simp] theorem State.setFontBase_script : (s.setFontBase b).script = s.script := rfl
@[simp] theorem State.setFontBase_onward : (s.setFontBase b).onward = s.onward := rfl
@[simp] theorem State.setFontBase_reg (x : Nibble) : (s.setFontBase b).reg x = s.reg x := rfl
@[simp] theorem State.setFontBase_pixel (col : Fin 64) (row : Fin 32) : (s.setFontBase b).pixel col row = s.pixel col row := rfl
@[simp] theorem State.setFontBase_key (j : Fin 16) : (s.setFontBase b).key j = s.key j := rfl
end

section
variable (s : State) (b : Option Addr)
@[simp] theorem State.setCartBase_v : (s.setCartBase b).v = s.v := rfl
@[simp] theorem State.setCartBase_index : (s.setCartBase b).index = s.index := rfl
@[simp] theorem State.setCartBase_pc : (s.setCartBase b).pc = s.pc := rfl
@[simp] theorem State.setCartBase_stack : (s.setCartBase b).stack = s.stack := rfl
@[simp] theorem State.setCartBase_dt : (s.setCartBase b).dt = s.dt := rfl
@[simp] theorem State.setCartBase_st : (s.setCartBase b).st = s.st := rfl
@[simp] theorem State.setCartBase_disp : (s.setCartBase b).disp = s.disp := rfl
@[simp] theorem State.setCartBase_dirty : (s.setCartBase b).dirty = s.dirty := rfl
@[simp] theorem State.setCartBase_keys : (s.setCartBase b).keys = s.keys := rfl
@[simp] theorem State.setCartBase_istate : (s.setCartBase b).istate = s.istate := rfl
@[simp] theorem State.setCartBase_run : (s.setCartBase b).run = s.run := rfl
@[simp] theorem State.setCartBase_fontBase : (s.setCartBase b).fontBase = s.fontBase := rfl
@[simp] theorem State.setCartBase_cartBase : (s.setCartBase b).cartBase = b := rfl
@[simp] theorem State.setCartBase_mem : (s.setCartBase b).mem = s.mem := rfl
@[simp] theorem State.setCartBase_params : (s.setCartBase b).params = s.params := rfl
@[simp] theorem State.setCartBase_draws : (s.setCartBase b).draws = s.draws := rfl
@[simp] theorem State.setCartBase_events : (s.setCartBase b).events = s.events := rfl
@[simp] theorem State.setCartBase_script : (s.setCartBase b).script = s.script := rfl
@[simp] theorem State.setCartBase_onward : (s.setCartBase b).onward = s.onward := rfl
@[simp] theorem State.setCartBase_reg (x : Nibble) : (s.setCartBase b).reg x = s.reg x := rfl
@[simp] theorem State.setCartBase_pixel (col : Fin 64) (row : Fin 32) : (s.setCartBase b).pixel col row = s.pixel col row := rfl
@[simp] theorem State.setCartBase_key (j : Fin 16) : (s.setCartBase b).key j = s.key j := rfl
end

section
variable (s : State) (m : Memory)
@[simp] theorem State.setMem_v : (s.setMem m).v = s.v := rfl
@[simp] theorem State.setMem_index : (s.setMem m).index = s.index := rfl
@[simp] theorem State.setMem_pc : (s.setMem m).pc = s.pc := rfl
@[simp] theorem State.setMem_stack : (s.setMem m).stack = s.stack := rfl
@[simp] theorem State.setMem_dt : (s.setMem m).dt = s.dt := rfl
@[simp] theorem State.setMem_st : (s.setMem m).st = s.st := rfl
@[simp] theorem State.setMem_disp : (s.setMem m).disp = s.disp := rfl
@[simp] theorem State.setMem_dirty : (s.setMem m).dirty = s.dirty := rfl
@[simp] theorem State.setMem_keys : (s.setMem m).keys = s.keys := rfl
@[simp] theorem State.setMem_istate : (s.setMem m).istate = s.istate := rfl
@[simp] theorem State.setMem_run : (s.setMem m).run = s.run := rfl
@[simp] theorem State.setMem_fontBase : (s.setMem m).fontBase = s.fontBase := rfl
@[simp] theorem State.setMem_cartBase : (s.setMem m).cartBase = s.cartBase := rfl
@[simp] theorem State.setMem_mem : (s.setMem m).mem = m := rfl
@[simp] theorem State.setMem_params : (s.setMem m).params = s.params := rfl
@[simp] theorem State.setMem_draws : (s.setMem m).draws = s.draws := rfl
@[simp] theorem State.setMem_events : (s.setMem m).events = s.events := rfl
@[simp] theorem State.setMem_script : (s.setMem m).script = s.script := rfl
@[simp] theorem State.setMem_onward : (s.setMem m).onward = s.onward := rfl
@[simp] theorem State.setMem_reg (x : Nibble) : (s.setMem m).reg x = s.reg x := rfl
@[simp] theorem State.setMem_pixel (col : Fin 64) (row : Fin 32) : (s.setMem m).pixel col row = s.pixel col row := rfl
@[simp] theorem State.setMem_key (j : Fin 16) : (s.setMem m).key j = s.key j := rfl
@[simp] theorem State.setMem_booted : (s.setMem m).booted = s.booted := rfl
end

section
variable (s : State) (n : Nat)
@[simp] theorem State.setDraws_v : (s.setDraws n).v = s.v := rfl
@[simp] theorem State.setDraws_index : (s.setDraws n).index = s.index := rfl
@[simp] theorem State.setDraws_pc : (s.setDraws n).pc = s.pc := rfl
@[simp] theorem State.setDraws_stack : (s.setDraws n).stack = s.stack := rfl
@[simp] theorem State.setDraws_dt : (s.setDraws n).dt = s.dt := rfl
@[simp] theorem State.setDraws_st : (s.setDraws n).st = s.st := rfl
@[simp] theorem State.setDraws_disp : (s.setDraws n).disp = s.disp := rfl
@[simp] theorem State.setDraws_dirty : (s.setDraws n).dirty = s.dirty := rfl
@[simp] theorem State.setDraws_keys : (s.setDraws n).keys = s.keys := rfl
@[simp] theorem State.setDraws_istate : (s.setDraws n).istate = s.istate := rfl
@[simp] theorem State.setDraws_run : (s.setDraws n).run = s.run := rfl
@[simp] theorem State.setDraws_fontBase : (s.setDraws n).fontBase = s.fontBase := rfl
@[simp] theorem State.setDraws_cartBase : (s.setDraws n).cartBase = s.cartBase := rfl
@[simp] theorem State.setDraws_mem : (s.setDraws n).mem = s.mem := rfl
@[simp] theorem State.setDraws_params : (s.setDraws n).params = s.params := rfl
@[simp] theorem State.setDraws_draws : (s.setDraws n).draws = n := rfl
@[simp] theorem State.setDraws_events : (s.setDraws n).events = s.events := rfl
@[simp] theorem State.setDraws_script : (s.setDraws n).script = s.script := rfl
@[simp] theorem State.setDraws_onward : (s.setDraws n).onward = s.onward := rfl
@[simp] theorem State.setDraws_reg (x : Nibble) : (s.setDraws n).reg x = s.reg x := rfl
@[simp] theorem State.setDraws_pixel (col : Fin 64) (row : Fin 32) : (s.setDraws n).pixel col row = s.pixel col row := rfl
@[simp] theorem State.setDraws_key (j : Fin 16) : (s.setDraws n).key j = s.key j := rfl
@[simp] theorem State.setDraws_booted : (s.setDraws n).booted = s.booted := rfl
end

section
variable (s : State) (l : List Event)
@[simp] theorem State.setEvents_v : (s.setEvents l).v = s.v := rfl
@[simp] theorem State.setEvents_index : (s.setEvents l).index = s.index := rfl
@[simp] theorem State.setEvents_pc : (s.setEvents l).pc = s.pc := rfl
@[simp] theorem State.setEvents_stack : (s.setEvents l).stack = s.stack := rfl
@[simp] theorem State.setEvents_dt : (s.setEvents l).dt = s.dt := rfl
@[simp] theorem State.setEvents_st : (s.setEvents l).st = s.st := rfl
@[simp] theorem State.setEvents_disp : (s.setEvents l).disp = s.disp := rfl
@[simp] theorem State.setEvents_dirty : (s.setEvents l).dirty = s.dirty := rfl
@[simp] theorem State.setEvents_keys : (s.setEvents l).keys = s.keys := rfl
@[simp] theorem State.setEvents_istate : (s.setEvents l).istate = s.istate := rfl
@[simp] theorem State.setEvents_run : (s.setEvents l).run = s.run := rfl
@[simp] theorem State.setEvents_fontBase : (s.setEvents l).fontBase = s.fontBase := rfl
@[simp] theorem State.setEvents_cartBase : (s.setEvents l).cartBase = s.cartBase := rfl
@[simp] theorem State.setEvents_mem : (s.setEvents l).mem = s.mem := rfl
@[simp] theorem State.setEvents_params : (s.setEvents l).params = s.params := rfl
@[simp] theorem State.setEvents_draws : (s.setEvents l).draws = s.draws := rfl
@[simp] theorem State.setEvents_events : (s.setEvents l).events = l := rfl
@[simp] theorem State.setEvents_script : (s.setEvents l).script = s.script := rfl
@[simp] theorem State.setEvents_onward : (s.setEvents l).onward = s.onward := rfl
@[simp] theorem State.setEvents_reg (x : Nibble) : (s.setEvents l).reg x = s.reg x := rfl
@[simp] theorem State.setEvents_pixel (col : Fin 64) (row : Fin 32) : (s.setEvents l).pixel col row = s.pixel col row := rfl
@[simp] theorem State.setEvents_key (j : Fin 16) : (s.setEvents l).key j = s.key j := rfl
@[simp] theorem State.setEvents_booted : (s.setEvents l).booted = s.booted := rfl
end

section
variable (s : State) (l : List Transaction)
@[simp] theorem State.setScript_v : (s.setScript l).v = s.v := rfl
@[simp] theorem State.setScript_index : (s.setScript l).index = s.index := rfl
@[simp] theorem State.setScript_pc : (s.setScript l).pc = s.pc := rfl
@[simp] theorem State.setScript_stack : (s.setScript l).stack = s.stack := rfl
@[simp] theorem State.setScript_dt : (s.setScript l).dt = s.dt := rfl
@[simp] theorem State.setScript_st : (s.setScript l).st = s.st := rfl
@[simp] theorem State.setScript_disp : (s.setScript l).disp = s.disp := rfl
@[simp] theorem State.setScript_dirty : (s.setScript l).dirty = s.dirty := rfl
@[simp] theorem State.setScript_keys : (s.setScript l).keys = s.keys := rfl
@[simp] theorem State.setScript_istate : (s.setScript l).istate = s.istate := rfl
@[simp] theorem State.setScript_run : (s.setScript l).run = s.run := rfl
@[simp] theorem State.setScript_fontBase : (s.setScript l).fontBase = s.fontBase := rfl
@[simp] theorem State.setScript_cartBase : (s.setScript l).cartBase = s.cartBase := rfl
@[simp] theorem State.setScript_mem : (s.setScript l).mem = s.mem := rfl
@[simp] theorem State.setScript_params : (s.setScript l).params = s.params := rfl
@[simp] theorem State.setScript_draws : (s.setScript l).draws = s.draws := rfl
@[simp] theorem State.setScript_events : (s.setScript l).events = s.events := rfl
@[simp] theorem State.setScript_script : (s.setScript l).script = l := rfl
@[simp] theorem State.setScript_onward : (s.setScript l).onward = s.onward := rfl
@[simp] theorem State.setScript_reg (x : Nibble) : (s.setScript l).reg x = s.reg x := rfl
@[simp] theorem State.setScript_pixel (col : Fin 64) (row : Fin 32) : (s.setScript l).pixel col row = s.pixel col row := rfl
@[simp] theorem State.setScript_key (j : Fin 16) : (s.setScript l).key j = s.key j := rfl
@[simp] theorem State.setScript_booted : (s.setScript l).booted = s.booted := rfl
end

section
variable (s : State) (o : Onward)
@[simp] theorem State.setOnward_v : (s.setOnward o).v = s.v := rfl
@[simp] theorem State.setOnward_index : (s.setOnward o).index = s.index := rfl
@[simp] theorem State.setOnward_pc : (s.setOnward o).pc = s.pc := rfl
@[simp] theorem State.setOnward_stack : (s.setOnward o).stack = s.stack := rfl
@[simp] theorem State.setOnward_dt : (s.setOnward o).dt = s.dt := rfl
@[simp] theorem State.setOnward_st : (s.setOnward o).st = s.st := rfl
@[simp] theorem State.setOnward_disp : (s.setOnward o).disp = s.disp := rfl
@[simp] theorem State.setOnward_dirty : (s.setOnward o).dirty = s.dirty := rfl
@[simp] theorem State.setOnward_keys : (s.setOnward o).keys = s.keys := rfl
@[simp] theorem State.setOnward_istate : (s.setOnward o).istate = s.istate := rfl
@[simp] theorem State.setOnward_run : (s.setOnward o).run = s.run := rfl
@[simp] theorem State.setOnward_fontBase : (s.setOnward o).fontBase = s.fontBase := rfl
@[simp] theorem State.setOnward_cartBase : (s.setOnward o).cartBase = s.cartBase := rfl
@[simp] theorem State.setOnward_mem : (s.setOnward o).mem = s.mem := rfl
@[simp] theorem State.setOnward_params : (s.setOnward o).params = s.params := rfl
@[simp] theorem State.setOnward_draws : (s.setOnward o).draws = s.draws := rfl
@[simp] theorem State.setOnward_events : (s.setOnward o).events = s.events := rfl
@[simp] theorem State.setOnward_script : (s.setOnward o).script = s.script := rfl
@[simp] theorem State.setOnward_onward : (s.setOnward o).onward = o := rfl
@[simp] theorem State.setOnward_reg (x : Nibble) : (s.setOnward o).reg x = s.reg x := rfl
@[simp] theorem State.setOnward_pixel (col : Fin 64) (row : Fin 32) : (s.setOnward o).pixel col row = s.pixel col row := rfl
@[simp] theorem State.setOnward_key (j : Fin 16) : (s.setOnward o).key j = s.key j := rfl
@[simp] theorem State.setOnward_booted : (s.setOnward o).booted = s.booted := rfl
end

section
variable (s : State) (x : Nibble) (b : Byte)
@[simp] theorem State.setReg_index : (s.setReg x b).index = s.index := rfl
@[simp] theorem State.setReg_pc : (s.setReg x b).pc = s.pc := rfl
@[simp] theorem State.setReg_stack : (s.setReg x b).stack = s.stack := rfl
@[simp] theorem State.setReg_dt : (s.setReg x b).dt = s.dt := rfl
@[simp] theorem State.setReg_st : (s.setReg x b).st = s.st := rfl
@[simp] theorem State.setReg_disp : (s.setReg x b).disp = s.disp := rfl
@[simp] theorem State.setReg_dirty : (s.setReg x b).dirty = s.dirty := rfl
@[simp] theorem State.setReg_keys : (s.setReg x b).keys = s.keys := rfl
@[simp] theorem State.setReg_istate : (s.setReg x b).istate = s.istate := rfl
@[simp] theorem State.setReg_run : (s.setReg x b).run = s.run := rfl
@[simp] theorem State.setReg_fontBase : (s.setReg x b).fontBase = s.fontBase := rfl
@[simp] theorem State.setReg_cartBase : (s.setReg x b).cartBase = s.cartBase := rfl
@[simp] theorem State.setReg_mem : (s.setReg x b).mem = s.mem := rfl
@[simp] theorem State.setReg_params : (s.setReg x b).params = s.params := rfl
@[simp] theorem State.setReg_draws : (s.setReg x b).draws = s.draws := rfl
@[simp] theorem State.setReg_events : (s.setReg x b).events = s.events := rfl
@[simp] theorem State.setReg_script : (s.setReg x b).script = s.script := rfl
@[simp] theorem State.setReg_onward : (s.setReg x b).onward = s.onward := rfl
@[simp] theorem State.setReg_pixel (col : Fin 64) (row : Fin 32) : (s.setReg x b).pixel col row = s.pixel col row := rfl
@[simp] theorem State.setReg_key (j : Fin 16) : (s.setReg x b).key j = s.key j := rfl
@[simp] theorem State.setReg_booted : (s.setReg x b).booted = s.booted := rfl
end

section
variable (s : State) (c : Fin 64) (r : Fin 32) (b : Bool)
@[simp] theorem State.setPixel_v : (s.setPixel c r b).v = s.v := rfl
@[simp] theorem State.setPixel_index : (s.setPixel c r b).index = s.index := rfl
@[simp] theorem State.setPixel_pc : (s.setPixel c r b).pc = s.pc := rfl
@[simp] theorem State.setPixel_stack : (s.setPixel c r b).stack = s.stack := rfl
@[simp] theorem State.setPixel_dt : (s.setPixel c r b).dt = s.dt := rfl
@[simp] theorem State.setPixel_st : (s.setPixel c r b).st = s.st := rfl
@[simp] theorem State.setPixel_dirty : (s.setPixel c r b).dirty = s.dirty := rfl
@[simp] theorem State.setPixel_keys : (s.setPixel c r b).keys = s.keys := rfl
@[simp] theorem State.setPixel_istate : (s.setPixel c r b).istate = s.istate := rfl
@[simp] theorem State.setPixel_run : (s.setPixel c r b).run = s.run := rfl
@[simp] theorem State.setPixel_fontBase : (s.setPixel c r b).fontBase = s.fontBase := rfl
@[simp] theorem State.setPixel_cartBase : (s.setPixel c r b).cartBase = s.cartBase := rfl
@[simp] theorem State.setPixel_mem : (s.setPixel c r b).mem = s.mem := rfl
@[simp] theorem State.setPixel_params : (s.setPixel c r b).params = s.params := rfl
@[simp] theorem State.setPixel_draws : (s.setPixel c r b).draws = s.draws := rfl
@[simp] theorem State.setPixel_events : (s.setPixel c r b).events = s.events := rfl
@[simp] theorem State.setPixel_script : (s.setPixel c r b).script = s.script := rfl
@[simp] theorem State.setPixel_onward : (s.setPixel c r b).onward = s.onward := rfl
@[simp] theorem State.setPixel_reg (y : Nibble) : (s.setPixel c r b).reg y = s.reg y := rfl
@[simp] theorem State.setPixel_key (j : Fin 16) : (s.setPixel c r b).key j = s.key j := rfl
@[simp] theorem State.setPixel_booted : (s.setPixel c r b).booted = s.booted := rfl
end

section
variable (s : State) (e : Event)
@[simp] theorem State.emit_v : (s.emit e).v = s.v := rfl
@[simp] theorem State.emit_index : (s.emit e).index = s.index := rfl
@[simp] theorem State.emit_pc : (s.emit e).pc = s.pc := rfl
@[simp] theorem State.emit_stack : (s.emit e).stack = s.stack := rfl
@[simp] theorem State.emit_dt : (s.emit e).dt = s.dt := rfl
@[simp] theorem State.emit_st : (s.emit e).st = s.st := rfl
@[simp] theorem State.emit_disp : (s.emit e).disp = s.disp := rfl
@[simp] theorem State.emit_dirty : (s.emit e).dirty = s.dirty := rfl
@[simp] theorem State.emit_keys : (s.emit e).keys = s.keys := rfl
@[simp] theorem State.emit_istate : (s.emit e).istate = s.istate := rfl
@[simp] theorem State.emit_run : (s.emit e).run = s.run := rfl
@[simp] theorem State.emit_fontBase : (s.emit e).fontBase = s.fontBase := rfl
@[simp] theorem State.emit_cartBase : (s.emit e).cartBase = s.cartBase := rfl
@[simp] theorem State.emit_mem : (s.emit e).mem = s.mem := rfl
@[simp] theorem State.emit_params : (s.emit e).params = s.params := rfl
@[simp] theorem State.emit_draws : (s.emit e).draws = s.draws := rfl
@[simp] theorem State.emit_script : (s.emit e).script = s.script := rfl
@[simp] theorem State.emit_onward : (s.emit e).onward = s.onward := rfl
@[simp] theorem State.emit_reg (y : Nibble) : (s.emit e).reg y = s.reg y := rfl
@[simp] theorem State.emit_pixel (col : Fin 64) (row : Fin 32) : (s.emit e).pixel col row = s.pixel col row := rfl
@[simp] theorem State.emit_key (j : Fin 16) : (s.emit e).key j = s.key j := rfl
@[simp] theorem State.emit_booted : (s.emit e).booted = s.booted := rfl
@[simp] theorem State.emit_events : (s.emit e).events = e :: s.events := rfl
end

section
variable (f : Fault) (s : State)
@[simp] theorem takeFault_v : (takeFault f s).v = s.v := rfl
@[simp] theorem takeFault_index : (takeFault f s).index = s.index := rfl
@[simp] theorem takeFault_pc : (takeFault f s).pc = s.pc := rfl
@[simp] theorem takeFault_stack : (takeFault f s).stack = s.stack := rfl
@[simp] theorem takeFault_dt : (takeFault f s).dt = s.dt := rfl
@[simp] theorem takeFault_st : (takeFault f s).st = s.st := rfl
@[simp] theorem takeFault_disp : (takeFault f s).disp = s.disp := rfl
@[simp] theorem takeFault_dirty : (takeFault f s).dirty = s.dirty := rfl
@[simp] theorem takeFault_keys : (takeFault f s).keys = s.keys := rfl
@[simp] theorem takeFault_istate : (takeFault f s).istate = s.istate := rfl
@[simp] theorem takeFault_run : (takeFault f s).run = .halted f := rfl
@[simp] theorem takeFault_fontBase : (takeFault f s).fontBase = s.fontBase := rfl
@[simp] theorem takeFault_cartBase : (takeFault f s).cartBase = s.cartBase := rfl
@[simp] theorem takeFault_mem : (takeFault f s).mem = s.mem := rfl
@[simp] theorem takeFault_params : (takeFault f s).params = s.params := rfl
@[simp] theorem takeFault_draws : (takeFault f s).draws = s.draws := rfl
@[simp] theorem takeFault_events : (takeFault f s).events = .halted f :: s.events := rfl
@[simp] theorem takeFault_script : (takeFault f s).script = s.script := rfl
@[simp] theorem takeFault_onward : (takeFault f s).onward = s.onward := rfl
@[simp] theorem takeFault_reg (x : Nibble) : (takeFault f s).reg x = s.reg x := rfl
@[simp] theorem takeFault_pixel (c : Fin 64) (r : Fin 32) : (takeFault f s).pixel c r = s.pixel c r := rfl
@[simp] theorem takeFault_booted : (takeFault f s).booted = s.booted := rfl
end

/-- Registers are independent (R20). -/
theorem State.reg_setReg (s : State) (x y : Nibble) (b : Byte) :
    (s.setReg x b).reg y = if x = y then b else s.reg y := by
  simp only [State.reg, State.setReg, State.setV_v, Vector.getElem_set]
  simp only [← BitVec.toNat_inj]

@[simp] theorem State.reg_setReg_same (s : State) (x : Nibble) (b : Byte) : (s.setReg x b).reg x = b := by
  simp [State.reg_setReg]

/-- Pixels are independent (R29). -/
theorem State.pixel_setPixel (s : State) (c c' : Fin 64) (r r' : Fin 32) (b : Bool) :
    (s.setPixel c r b).pixel c' r' = if c = c' ∧ r = r' then b else s.pixel c' r' := by
  simp only [State.pixel, State.setPixel, State.setDisp_disp, Vector.getElem_set]
  rcases eq_or_ne r r' with rfl | hr
  · simp [Vector.getElem_set, Fin.ext_iff]
  · simp [hr, Fin.val_ne_of_ne hr]

/-- Two states with the same registers. -/
theorem State.v_ext {s t : State} (h : ∀ x, s.reg x = t.reg x) : s.v = t.v := by
  refine Vector.ext fun i hi => ?_
  have := h (BitVec.ofNat 4 i)
  simpa only [State.reg, BitVec.toNat_ofNat, Nat.mod_eq_of_lt (show i < 2 ^ 4 from hi)] using this

end Sys2Proof.Machine
end

