-- ==== Sys2Proof/Laws/Ops.lean ====
section
/-! SUPPORT. What each shared operation can do, said once: the equation of an operation run on a state, and how a
sequence of statements runs (spec/00_scope.md R9, R10). Proofs cite these and never unfold the operations. -/

namespace Sys2Proof.Machine

section
variable {α β : Type} (m : Exec α) (k : α → Exec β) (s : State)

/-- Statements run in order; a stop ends them in the state it was raised in (R10). -/
@[simp] theorem bind_run : (m >>= k) s =
    match m s with
    | .ok a t => k a t
    | .error e t => .error e t := by
  show EStateM.bind m k s = _
  unfold EStateM.bind
  split <;> rename_i h <;> rw [h]

@[simp] theorem map_run (f : α → β) : (f <$> m) s =
    match m s with
    | .ok a t => .ok (f a) t
    | .error e t => .error e t := by
  show EStateM.map f m s = _
  unfold EStateM.map
  split <;> rename_i h <;> rw [h]

@[simp] theorem pure_run (a : α) : (pure a : Exec α) s = .ok a s := rfl

@[simp] theorem raise_run (f : Fault) : (raise f : Exec α) s = .error (.fault f) s := rfl

@[simp] theorem refuse_run (r : Refusal) : (refuse r : Exec α) s = .error (.refuse r) s := rfl

@[simp] theorem readState_run (f : State → α) : readState f s = .ok (f s) s := rfl

@[simp] theorem modifyState_run (f : State → State) : modifyState f s = .ok () (f s) := rfl

end

section
variable (m : Exec Unit) (s t : State)

theorem finish_ok (h : m s = .ok () t) : finish m s = .next t := by rw [finish, h]

theorem finish_fault {f : Fault} (h : m s = .error (.fault f) t) : finish m s = .next (takeFault f t) := by
  rw [finish, h]

theorem finish_refuse {r : Refusal} (h : m s = .error (.refuse r) t) : finish m s = .refused r := by
  rw [finish, h]

/-- The inversion of `finish`: how a transaction can answer a next state. -/
theorem finish_next (h : finish m s = .next t) :
    m s = .ok () t ∨ ∃ f u, m s = .error (.fault f) u ∧ t = takeFault f u := by
  unfold finish at h
  split at h
  · rename_i u hm
    cases h
    exact .inl hm
  · rename_i f u hm
    cases h
    exact .inr ⟨f, u, hm, rfl⟩
  · cases h

end

section
variable (s : State)

/-- A register read through a 4-bit field passes the check of R21. -/
@[simp] theorem readReg_run (x : Nibble) : readReg x.toNat s = .ok (s.reg x) s := by
  rw [readReg, dif_pos (show x.toNat < 16 from x.isLt)]
  rfl

/-- A register write through a 4-bit field passes the check of R21. -/
@[simp] theorem writeReg_run (x : Nibble) (b : Byte) : writeReg x.toNat b s = .ok () (s.setReg x b) := by
  rw [writeReg, dif_pos (show x.toNat < 16 from x.isLt)]
  rfl

@[simp] theorem readVx_run (x : Nibble) : readVx x s = .ok (s.reg x) s := readReg_run s x

@[simp] theorem writeVx_run (x : Nibble) (b : Byte) : writeVx x b s = .ok () (s.setReg x b) := writeReg_run s x b

/-- The reads and writes of the loops of FX55 and FX65, whose index counts up to 15. -/
theorem readReg_ofNat {i : Nat} (h : i < 16) : readReg i s = .ok (s.reg (BitVec.ofNat 4 i)) s := by
  have := readReg_run s (BitVec.ofNat 4 i)
  rwa [BitVec.toNat_ofNat, Nat.mod_eq_of_lt (show i < 2 ^ 4 from h)] at this

theorem writeReg_ofNat {i : Nat} (h : i < 16) (b : Byte) :
    writeReg i b s = .ok () (s.setReg (BitVec.ofNat 4 i) b) := by
  have := writeReg_run s (BitVec.ofNat 4 i) b
  rwa [BitVec.toNat_ofNat, Nat.mod_eq_of_lt (show i < 2 ^ 4 from h)] at this

@[simp] theorem readIndex_run : readIndex s = .ok s.index.toNat s := rfl

@[simp] theorem rand_run : rand s = .ok (Config.randByte s.draws) (s.setDraws (s.draws + 1)) := rfl

theorem memRead_run (a : Nat) : memRead a s =
    if a < 4096 then .ok (Memory.read s.mem a) s else .error (.fault (.memoryOverflow a)) s := rfl

theorem memWrite_run (a : Nat) (b : Byte) : memWrite a b s =
    if a < 4096 then .ok () (s.setMem (Memory.write s.mem a b)) else .error (.fault (.memoryOverflow a)) s := rfl

theorem setI_run (t : Nat) : setI t s =
    if t < 4096 then .ok () (s.setIndex (BitVec.ofNat 16 t)) else .error (.fault (.indexRegisterOverflow t)) s := rfl

theorem jumpTo_run (t : Nat) : jumpTo t s =
    if t < 4096 then .ok () (s.setPc (BitVec.ofNat 16 t)) else .error (.fault (.programCounterOverflow t)) s := rfl

theorem advance_run (k : Nat) : advance k s =
    if s.pc.toNat + k < 4096 then .ok () (s.setPc (s.pc + BitVec.ofNat 16 k))
    else .error (.fault (.programCounterOverflow (s.pc.toNat + k))) s := by
  rw [advance, jumpTo_run, BitVec.ofNat_add, BitVec.ofNat_toNat, BitVec.setWidth_eq]

theorem pushReturn_run (r : Nat) : pushReturn r s =
    if r < 4096 then
      if s.params.stackDepth = some s.stack.length then .error (.fault .stackOverflow) s
      else .ok () (s.setStack (BitVec.ofNat 16 r :: s.stack))
    else .error (.fault (.programCounterOverflow r)) s := rfl

theorem popReturn_run : popReturn s =
    match s.stack with
    | [] => .error (.fault .stackUnderflow) s
    | t :: rest => .ok t.toNat (s.setStack rest) := by
  unfold popReturn
  split <;> rename_i h <;> simp [h]

theorem readKeyIndex_run (x : Nibble) : readKeyIndex x s =
    if h : (s.reg x).toNat < 16 then .ok ⟨(s.reg x).toNat, h⟩ s
    else .error (.fault (.keyIndexOutOfRange (s.reg x).toNat)) s := by
  by_cases h : (s.reg x).toNat < 16 <;> simp [readKeyIndex, h]

theorem readKey_run (x : Nibble) : readKey x s =
    if h : (s.reg x).toNat < 16 then .ok (s.key ⟨(s.reg x).toNat, h⟩) s
    else .error (.fault (.keyIndexOutOfRange (s.reg x).toNat)) s := by
  by_cases h : (s.reg x).toNat < 16 <;> simp [readKey, readKeyIndex_run, h]

/-- The fetch (R54). -/
theorem fetch_run : fetch s =
    if s.pc.toNat < 4096 then
      if s.pc.toNat + 1 < 4096 then
        .ok (joinWord (Memory.read s.mem s.pc.toNat) (Memory.read s.mem (s.pc.toNat + 1))) s
      else .error (.fault (.memoryOverflow (s.pc.toNat + 1))) s
    else .error (.fault (.memoryOverflow s.pc.toNat)) s := by
  by_cases h : s.pc.toNat < 4096 <;> by_cases h' : s.pc.toNat + 1 < 4096 <;> simp [fetch, memRead_run, h, h']

end

end Sys2Proof.Machine
end

