-- ==== Sys2Proof/Laws/Loops.lean ====
section
/-! SUPPORT. The loops of FX55 and FX65 (spec/42_index_memory.md R145, R146): everything they can do, by induction. -/

namespace Sys2Proof.Machine

theorem State.setMem_self (s : State) : s.setMem s.mem = s := rfl

theorem State.setV_self (s : State) : s.setV s.v = s := rfl

theorem State.setReg_self (s : State) (x : Nibble) : s.setReg x (s.reg x) = s := by
  have : s.v.set x.toNat (s.reg x) x.isLt = s.v := Vector.set_getElem_self (xs := s.v) (i := x.toNat) x.isLt
  rw [State.setReg, this, State.setV_self]

/-- The address of the register that a byte of the stored block holds. -/
def storedReg (base a : Nat) : Nibble := BitVec.ofNat 4 (a - base)

/-- One turn of the store loop. -/
theorem storeRegs_succ (s : State) (base n : Nat) {i : Nat} (hi : i < 16) :
    storeRegs base (n + 1) i s =
      if base + i < 4096 then
        storeRegs base n (i + 1) (s.setMem (Memory.write s.mem (base + i) (s.reg (BitVec.ofNat 4 i))))
      else .error (.fault (.memoryOverflow (base + i))) s := by
  by_cases h : base + i < 4096 <;> simp [storeRegs, readReg_ofNat s hi, memWrite_run, h]

/-- FX55 with every byte inside memory: the block holds the registers, every other byte is as before. -/
theorem storeRegs_ok {s : State} {base n i : Nat} (hw : Memory.wf s.mem = true) (hi : i + n ≤ 16)
    (ha : base + i + n ≤ 4096) :
    ∃ m, storeRegs base n i s = .ok () (s.setMem m) ∧ Memory.wf m = true ∧
      ∀ a, Memory.read m a =
        if base + i ≤ a ∧ a < base + i + n then s.reg (storedReg base a) else Memory.read s.mem a := by
  induction n generalizing s i with
  | zero => exact ⟨s.mem, by simp [storeRegs, State.setMem_self], hw, fun a => by rw [if_neg (by omega)]⟩
  | succ n ih =>
    have h4 : base + i < 4096 := by omega
    obtain ⟨m, hm, hwm, hr⟩ := ih (s := s.setMem (Memory.write s.mem (base + i) (s.reg (BitVec.ofNat 4 i))))
      (i := i + 1) (Memory.write_wf hw h4 _) (by omega) (by omega)
    refine ⟨m, by rw [storeRegs_succ s base n (by omega), if_pos h4, hm]; rfl, hwm, fun a => ?_⟩
    rw [hr a]
    simp only [State.setMem_mem, State.setMem_reg, Memory.read_write hw]
    rcases Nat.lt_trichotomy a (base + i) with h | rfl | h
    · rw [if_neg (by omega), if_neg (by omega), if_neg (by omega)]
    · rw [if_neg (by omega), if_pos rfl, if_pos (by omega), storedReg, Nat.add_sub_cancel_left]
    · by_cases h' : a < base + i + (n + 1)
      · rw [if_pos (by omega), if_pos (by omega)]
      · rw [if_neg (by omega), if_neg (by omega), if_neg (by omega)]

/-- FX55 that runs over the top of memory: the bytes up to the top stand, then MemoryOverflow(4096). -/
theorem storeRegs_fault {s : State} {base n i : Nat} (hw : Memory.wf s.mem = true) (hi : i + n ≤ 16)
    (hb : base + i ≤ 4096) (ha : 4096 < base + i + n) :
    ∃ m, storeRegs base n i s = .error (.fault (.memoryOverflow 4096)) (s.setMem m) ∧ Memory.wf m = true ∧
      ∀ a, Memory.read m a =
        if base + i ≤ a ∧ a < 4096 then s.reg (storedReg base a) else Memory.read s.mem a := by
  induction n generalizing s i with
  | zero => omega
  | succ n ih =>
    by_cases h4 : base + i < 4096
    · obtain ⟨m, hm, hwm, hr⟩ := ih (s := s.setMem (Memory.write s.mem (base + i) (s.reg (BitVec.ofNat 4 i))))
        (i := i + 1) (Memory.write_wf hw h4 _) (by omega) (by omega) (by omega)
      refine ⟨m, by rw [storeRegs_succ s base n (by omega), if_pos h4, hm]; rfl, hwm, fun a => ?_⟩
      rw [hr a]
      simp only [State.setMem_mem, State.setMem_reg, Memory.read_write hw]
      rcases Nat.lt_trichotomy a (base + i) with h | rfl | h
      · rw [if_neg (by omega), if_neg (by omega), if_neg (by omega)]
      · rw [if_neg (by omega), if_pos rfl, if_pos (by omega), storedReg, Nat.add_sub_cancel_left]
      · by_cases h' : a < 4096
        · rw [if_pos (by omega), if_pos (by omega)]
        · rw [if_neg (by omega), if_neg (by omega), if_neg (by omega)]
    · refine ⟨s.mem, ?_, hw, fun a => by rw [if_neg (by omega)]⟩
      rw [storeRegs_succ s base n (by omega), if_neg h4, show base + i = 4096 by omega, State.setMem_self]

/-- Everything the store loop can do: it writes memory alone, keeps the canonical form, leaves every byte outside its
block, and a stop is MemoryOverflow at an address outside memory. -/
theorem storeRegs_cases (s : State) (base n i : Nat) (hi : i + n ≤ 16) :
    ∃ m, (Memory.wf s.mem = true → Memory.wf m = true ∧
        ∀ a, a < base + i ∨ base + i + n ≤ a → Memory.read m a = Memory.read s.mem a) ∧
      (storeRegs base n i s = .ok () (s.setMem m) ∨
        ∃ a, 4096 ≤ a ∧ storeRegs base n i s = .error (.fault (.memoryOverflow a)) (s.setMem m)) := by
  induction n generalizing s i with
  | zero => exact ⟨s.mem, fun hw => ⟨hw, fun _ _ => rfl⟩, .inl rfl⟩
  | succ n ih =>
    rw [storeRegs_succ s base n (by omega)]
    by_cases h4 : base + i < 4096
    · obtain ⟨m, hm, hr⟩ := ih (s.setMem (Memory.write s.mem (base + i) (s.reg (BitVec.ofNat 4 i)))) (i + 1) (by omega)
      simp only [if_pos h4]
      refine ⟨m, fun hw => ?_, hr⟩
      obtain ⟨hwm, hf⟩ := hm (Memory.write_wf hw h4 _)
      refine ⟨hwm, fun a ha => ?_⟩
      rw [hf a (by omega), State.setMem_mem, Memory.read_write hw, if_neg (by omega)]
    · simp only [if_neg h4]
      exact ⟨s.mem, fun hw => ⟨hw, fun _ _ => rfl⟩, .inr ⟨base + i, by omega, rfl⟩⟩

/-- One turn of the restore loop. -/
theorem restoreRegs_succ (s : State) (base n : Nat) {i : Nat} (hi : i < 16) :
    restoreRegs base (n + 1) i s =
      if base + i < 4096 then
        restoreRegs base n (i + 1) (s.setReg (BitVec.ofNat 4 i) (Memory.read s.mem (base + i)))
      else .error (.fault (.memoryOverflow (base + i))) s := by
  by_cases h : base + i < 4096 <;> simp [restoreRegs, writeReg_ofNat s hi, memRead_run, h]

/-- FX65 with every byte inside memory: the registers of the block hold its bytes, the others are as before. -/
theorem restoreRegs_ok {s : State} {base n i : Nat} (hi : i + n ≤ 16) (ha : base + i + n ≤ 4096) :
    ∃ v, restoreRegs base n i s = .ok () (s.setV v) ∧
      ∀ y, (s.setV v).reg y =
        if i ≤ y.toNat ∧ y.toNat < i + n then Memory.read s.mem (base + y.toNat) else s.reg y := by
  induction n generalizing s i with
  | zero => exact ⟨s.v, rfl, fun y => by rw [if_neg (by omega)]; rfl⟩
  | succ n ih =>
    have h4 : base + i < 4096 := by omega
    obtain ⟨v, hv, hr⟩ := ih (s := s.setReg (BitVec.ofNat 4 i) (Memory.read s.mem (base + i))) (i := i + 1)
      (by omega) (by omega)
    refine ⟨v, by rw [restoreRegs_succ s base n (by omega), if_pos h4, hv]; rfl, fun y => ?_⟩
    have e : (BitVec.ofNat 4 i = y) ↔ i = y.toNat := by
      rw [← BitVec.toNat_inj, BitVec.toNat_ofNat, Nat.mod_eq_of_lt (show i < 2 ^ 4 by omega)]
    have := hr y
    simp only [State.setReg_mem, State.reg_setReg, e] at this
    rw [show (s.setV v).reg y = ((s.setReg (BitVec.ofNat 4 i) (Memory.read s.mem (base + i))).setV v).reg y from rfl, this]
    rcases Nat.lt_trichotomy y.toNat i with h | h | h
    · rw [if_neg (by omega), if_neg (by omega), if_neg (by omega)]
    · rw [if_neg (by omega), if_pos h.symm, if_pos (by omega), h]
    · by_cases h' : y.toNat < i + (n + 1)
      · rw [if_pos (by omega), if_pos (by omega)]
      · rw [if_neg (by omega), if_neg (by omega), if_neg (by omega)]

/-- FX65 that runs over the top of memory: the registers up to the top are loaded, then MemoryOverflow(4096). -/
theorem restoreRegs_fault {s : State} {base n i : Nat} (hi : i + n ≤ 16) (hb : base + i ≤ 4096)
    (ha : 4096 < base + i + n) :
    ∃ v, restoreRegs base n i s = .error (.fault (.memoryOverflow 4096)) (s.setV v) ∧
      ∀ y, (s.setV v).reg y =
        if i ≤ y.toNat ∧ base + y.toNat < 4096 then Memory.read s.mem (base + y.toNat) else s.reg y := by
  induction n generalizing s i with
  | zero => omega
  | succ n ih =>
    by_cases h4 : base + i < 4096
    · obtain ⟨v, hv, hr⟩ := ih (s := s.setReg (BitVec.ofNat 4 i) (Memory.read s.mem (base + i))) (i := i + 1)
        (by omega) (by omega) (by omega)
      refine ⟨v, by rw [restoreRegs_succ s base n (by omega), if_pos h4, hv]; rfl, fun y => ?_⟩
      have e : (BitVec.ofNat 4 i = y) ↔ i = y.toNat := by
        rw [← BitVec.toNat_inj, BitVec.toNat_ofNat, Nat.mod_eq_of_lt (show i < 2 ^ 4 by omega)]
      have := hr y
      simp only [State.setReg_mem, State.reg_setReg, e] at this
      rw [show (s.setV v).reg y = ((s.setReg (BitVec.ofNat 4 i) (Memory.read s.mem (base + i))).setV v).reg y from rfl,
        this]
      rcases Nat.lt_trichotomy y.toNat i with h | h | h
      · rw [if_neg (by omega), if_neg (by omega), if_neg (by omega)]
      · rw [if_neg (by omega), if_pos h.symm, if_pos (by omega), h]
      · by_cases h' : base + y.toNat < 4096
        · rw [if_pos (by omega), if_pos (by omega)]
        · rw [if_neg (by omega), if_neg (by omega), if_neg (by omega)]
    · refine ⟨s.v, ?_, fun y => by rw [if_neg (by omega)]; rfl⟩
      rw [restoreRegs_succ s base n (by omega), if_neg h4, show base + i = 4096 by omega, State.setV_self]

/-- Everything the restore loop can do: it writes registers alone, those from `i` to `i + n - 1`, and a stop is
MemoryOverflow at an address outside memory. -/
theorem restoreRegs_cases (s : State) (base n i : Nat) (hi : i + n ≤ 16) :
    ∃ v, (∀ y : Nibble, i + n ≤ y.toNat → (s.setV v).reg y = s.reg y) ∧
      (restoreRegs base n i s = .ok () (s.setV v) ∨
        ∃ a, 4096 ≤ a ∧ restoreRegs base n i s = .error (.fault (.memoryOverflow a)) (s.setV v)) := by
  induction n generalizing s i with
  | zero => exact ⟨s.v, fun _ _ => rfl, .inl rfl⟩
  | succ n ih =>
    rw [restoreRegs_succ s base n (by omega)]
    by_cases h4 : base + i < 4096
    · obtain ⟨v, hv, hr⟩ := ih (s.setReg (BitVec.ofNat 4 i) (Memory.read s.mem (base + i))) (i + 1) (by omega)
      simp only [if_pos h4]
      refine ⟨v, fun y hy => (hv y (by omega)).trans ?_, hr⟩
      rw [State.reg_setReg, if_neg]
      rintro rfl
      simp only [BitVec.toNat_ofNat] at hy
      omega
    · simp only [if_neg h4]
      exact ⟨s.v, fun _ _ => rfl, .inr ⟨base + i, by omega, rfl⟩⟩

end Sys2Proof.Machine
end

