-- ==== Sys2Proof/Laws/Draw.lean ====
section
/-! SUPPORT. The drawing loops of DXYN (spec/43_display.md R162) in closed form: which pixels flip, and what that does
to the dirty flag and to VF. -/

namespace Sys2Proof.Machine

/-- The sprite reads of R162 when every address is inside memory. -/
theorem readSprite_ok {s : State} {a n : Nat} (h : n = 0 ∨ a + n ≤ 4096) :
    readSprite a n s = .ok ((List.range n).map fun k => Memory.read s.mem (a + k)) s := by
  induction n generalizing a with
  | zero => rfl
  | succ n ih =>
    have h4 : a < 4096 := by omega
    simp only [readSprite, bind_run, memRead_run, if_pos h4, ih (a := a + 1) (by omega), pure_run]
    rw [List.range_succ_eq_map, List.map_cons, List.map_map]
    simp only [Nat.add_zero, Function.comp_def, Nat.succ_eq_add_one, Nat.add_assoc, Nat.add_comm 1]

/-- The sprite reads of R162 when some address is outside memory: the first such address is the fault's. -/
theorem readSprite_fault {s : State} {a n : Nat} (h0 : 0 < n) (h : 4096 < a + n) :
    readSprite a n s = .error (.fault (.memoryOverflow (max a 4096))) s := by
  induction n generalizing a with
  | zero => omega
  | succ n ih =>
    by_cases h4 : a < 4096
    · simp only [readSprite, bind_run, memRead_run, if_pos h4, ih (a := a + 1) (by omega) (by omega)]
      rw [Nat.max_eq_right (by omega), Nat.max_eq_right (by omega)]
    · simp only [readSprite, bind_run, memRead_run, if_neg h4]
      rw [Nat.max_eq_left (by omega)]

/-- Drawing changes the display, the dirty flag and VF alone. -/
def DrawFrame (s t : State) : Prop :=
  ∃ d b f, t = ((s.setDisp d).setDirty b).setReg vf f

/-- What flipping the pixels that `hit` names does. -/
structure Drawn (hit : Fin 64 → Fin 32 → Bool) (s t : State) : Prop where
  /-- Nothing else changes. -/
  frame : DrawFrame s t
  /-- Each named pixel flips. -/
  pixel : ∀ c r, t.pixel c r = (s.pixel c r ^^ hit c r)
  /-- The display is dirty when a pixel flipped. -/
  dirty : t.dirty = true ↔ s.dirty = true ∨ ∃ c r, hit c r = true
  /-- VF is 1 when a pixel went from set to unset. -/
  flag : t.reg vf = if ∃ c r, hit c r = true ∧ s.pixel c r = true then 0x01#8 else s.reg vf

theorem State.setReg_setReg (s : State) (x : Nibble) (a b : Byte) : (s.setReg x a).setReg x b = s.setReg x b := by
  simp [State.setReg, State.setV]

theorem Drawn.refl (s : State) : Drawn (fun _ _ => false) s s where
  frame := ⟨s.disp, s.dirty, s.reg vf, (State.setReg_self s vf).symm⟩
  pixel := by simp
  dirty := by simp
  flag := by simp

theorem Drawn.trans {p q : Fin 64 → Fin 32 → Bool} {s t u : State} (hp : Drawn p s t) (hq : Drawn q t u)
    (hd : ∀ c r, p c r = true → q c r = false) : Drawn (fun c r => p c r || q c r) s u where
  frame := by
    obtain ⟨d, b, f, rfl⟩ := hp.frame
    obtain ⟨d', b', f', rfl⟩ := hq.frame
    refine ⟨d', b', f', ?_⟩
    show ((((s.setDisp d').setDirty b').setReg vf f).setReg vf f') = _
    rw [State.setReg_setReg]
  pixel c r := by
    rw [hq.pixel, hp.pixel]
    have := hd c r
    cases h : p c r <;> cases h' : q c r <;> simp_all
  dirty := by
    rw [hq.dirty, hp.dirty]
    simp only [Bool.or_eq_true, exists_or, or_assoc]
  flag := by
    rw [hq.flag, hp.flag]
    have e : (∃ c r, (p c r || q c r) = true ∧ s.pixel c r = true) ↔
        (∃ c r, q c r = true ∧ t.pixel c r = true) ∨ ∃ c r, p c r = true ∧ s.pixel c r = true := by
      have ht : ∀ c r, q c r = true → t.pixel c r = s.pixel c r := by
        intro c r h
        rw [hp.pixel]
        cases h' : p c r
        · simp
        · have := hd c r h'
          simp_all
      constructor
      · rintro ⟨c, r, h, hs⟩
        rcases Bool.or_eq_true _ _ ▸ h with h | h
        · exact .inr ⟨c, r, h, hs⟩
        · exact .inl ⟨c, r, h, by rw [ht c r h, hs]⟩
      · rintro (⟨c, r, h, hs⟩ | ⟨c, r, h, hs⟩)
        · exact ⟨c, r, by simp [h], by rw [← ht c r h, hs]⟩
        · exact ⟨c, r, by simp [h], hs⟩
    simp only [e]
    by_cases h1 : ∃ c r, q c r = true ∧ t.pixel c r = true <;>
      by_cases h2 : ∃ c r, p c r = true ∧ s.pixel c r = true <;> simp only [h1, h2, true_or, or_true, or_self, if_true, if_false]

/-- One flip. -/
theorem flipPixel_drawn (c : Fin 64) (r : Fin 32) (s : State) :
    Drawn (fun c' r' => decide (c = c' ∧ r = r')) s (flipPixel c r s) := by
  have hf : DrawFrame s (flipPixel c r s) := by
    unfold flipPixel
    split
    · exact ⟨_, true, 0x01#8, rfl⟩
    · exact ⟨_, true, s.reg vf, (State.setReg_self ((s.setPixel c r _).setDirty true) vf).symm⟩
  refine ⟨hf, fun c' r' => ?_, ?_, ?_⟩
  · have : (flipPixel c r s).pixel c' r' = (s.setPixel c r (!s.pixel c r)).pixel c' r' := by
      unfold flipPixel
      split <;> rfl
    rw [this, State.pixel_setPixel]
    by_cases h : c = c' ∧ r = r'
    · obtain ⟨rfl, rfl⟩ := h
      simp
    · simp [h]
  · have : (flipPixel c r s).dirty = true := by
      unfold flipPixel
      split <;> rfl
    simp [this]
  · have e : (∃ c' r', decide (c = c' ∧ r = r') = true ∧ s.pixel c' r' = true) ↔ s.pixel c r = true := by
      constructor
      · rintro ⟨c', r', h, hs⟩
        obtain ⟨rfl, rfl⟩ := of_decide_eq_true h
        exact hs
      · exact fun h => ⟨c, r, by simp, h⟩
    simp only [e]
    unfold flipPixel
    by_cases h : s.pixel c r = true
    · simp [h]
    · rw [if_neg h, if_neg h]
      rfl

/-- Whether the sprite byte `b`, anchored at column `c0`, has its bit number `c0 + 7 - c` below `k` set on column `c`. -/
def columnHit (b : Byte) (c0 k : Nat) (c : Fin 64) : Bool :=
  decide (c0 ≤ c.val ∧ c.val ≤ c0 + 7 ∧ c0 + 7 - c.val < k) && spriteBit b (c0 + 7 - c.val)

/-- The inner loop. -/
theorem drawColumns_drawn (b : Byte) (c0 : Nat) (r : Fin 32) {k : Nat} (hk : k ≤ 8) (s : State) :
    Drawn (fun c r' => decide (r = r') && columnHit b c0 k c) s (drawColumns b c0 r k s) := by
  induction k generalizing s with
  | zero =>
    have : (fun (c : Fin 64) r' => decide (r = r') && columnHit b c0 0 c) = fun _ _ => false := by
      funext c r'
      simp [columnHit]
    rw [this]
    exact Drawn.refl s
  | succ k ih =>
    unfold drawColumns
    split
    · rename_i h
      have hset : (fun (c : Fin 64) r' => decide (r = r') && columnHit b c0 (k + 1) c) = fun c r' =>
          (spriteBit b k && decide (⟨c0 + (7 - k), h⟩ = c ∧ r = r')) || (decide (r = r') && columnHit b c0 k c) := by
        funext c r'
        by_cases hr : r = r'
        · by_cases hc : c0 + (7 - k) = c.val
          · have e : c0 + 7 - c.val = k := by omega
            have e' : (⟨c0 + (7 - k), h⟩ : Fin 64) = c := Fin.ext hc
            have h1 : c0 ≤ c.val ∧ c.val ≤ c0 + 7 := by omega
            simp [columnHit, hr, e, e', h1]
          · have e' : (⟨c0 + (7 - k), h⟩ : Fin 64) ≠ c := fun h' => hc (congrArg Fin.val h')
            have h1 : (c0 ≤ c.val ∧ c.val ≤ c0 + 7 ∧ c0 + 7 - c.val < k + 1) ↔
                (c0 ≤ c.val ∧ c.val ≤ c0 + 7 ∧ c0 + 7 - c.val < k) := by omega
            simp only [columnHit, h1, e', false_and, decide_false, Bool.and_false, Bool.false_or]
        · simp [hr]
      rw [hset]
      refine Drawn.trans ?_ (ih (by omega) _) ?_
      · cases hb : spriteBit b k
        · simpa using Drawn.refl s
        · simpa using flipPixel_drawn ⟨c0 + (7 - k), h⟩ r s
      · intro c r' hc
        simp only [Bool.and_eq_true, decide_eq_true_eq] at hc
        obtain ⟨-, rfl, -⟩ := hc
        simp only [columnHit, Bool.and_eq_false_iff, decide_eq_false_iff_not]
        exact .inr (.inl (by omega))
    · rename_i h
      have hset : (fun (c : Fin 64) r' => decide (r = r') && columnHit b c0 (k + 1) c) = fun _ _ => false := by
        funext c r'
        have : ¬(c0 ≤ c.val ∧ c.val ≤ c0 + 7 ∧ c0 + 7 - c.val < k + 1) := by
          have := c.isLt
          omega
        simp only [columnHit, this, decide_false, Bool.false_and, Bool.and_false]
      rw [hset]
      exact Drawn.refl s

/-- Whether the sprite `bytes`, anchored at `(c0, r0)`, has a set bit on pixel `(c, r)`. -/
def spriteHit (c0 r0 : Nat) (bytes : List Byte) (c : Fin 64) (r : Fin 32) : Bool :=
  decide (r0 ≤ r.val ∧ r.val < r0 + bytes.length) && columnHit (bytes.getD (r.val - r0) 0) c0 8 c

/-- The outer loop: the whole sprite. -/
theorem drawRows_drawn (c0 r0 : Nat) (bytes : List Byte) (s : State) :
    Drawn (spriteHit c0 r0 bytes) s (drawRows c0 r0 bytes s) := by
  induction bytes generalizing s r0 with
  | nil =>
    have : spriteHit c0 r0 [] = fun _ _ => false := by
      funext c r
      have : ¬(r0 ≤ r.val ∧ r.val < r0 + ([] : List Byte).length) := by
        simp only [List.length_nil]
        omega
      simp only [spriteHit, this, decide_false, Bool.false_and]
    rw [this]
    exact Drawn.refl s
  | cons b bs ih =>
    unfold drawRows
    split
    · rename_i h
      have hset : spriteHit c0 r0 (b :: bs) = fun c r =>
          (decide (⟨r0, h⟩ = r) && columnHit b c0 8 c) || spriteHit c0 (r0 + 1) bs c r := by
        funext c r
        by_cases hr : r0 = r.val
        · simp [spriteHit, hr]
        · have e : (⟨r0, h⟩ : Fin 32) ≠ r := fun h' => hr (congrArg Fin.val h')
          simp only [spriteHit, e, decide_false, Bool.false_and, Bool.false_or, List.length_cons]
          by_cases h1 : r0 ≤ r.val ∧ r.val < r0 + (bs.length + 1)
          · have h2 : r0 + 1 ≤ r.val ∧ r.val < r0 + 1 + bs.length := by omega
            rw [show r.val - r0 = (r.val - (r0 + 1)) + 1 by omega, List.getD_cons_succ]
            simp only [h1, h2, and_self, decide_true]
          · have h2 : ¬(r0 + 1 ≤ r.val ∧ r.val < r0 + 1 + bs.length) := by omega
            simp only [h1, h2, decide_false, Bool.false_and]
      rw [hset]
      refine Drawn.trans (drawColumns_drawn b c0 ⟨r0, h⟩ (Nat.le_refl 8) s) (ih (r0 + 1) _) ?_
      intro c r hc
      simp only [Bool.and_eq_true, decide_eq_true_eq] at hc
      obtain ⟨rfl, -⟩ := hc
      simp [spriteHit]
    · rename_i h
      have : spriteHit c0 r0 (b :: bs) = fun _ _ => false := by
        funext c r
        have h1 : ¬(r0 ≤ r.val ∧ r.val < r0 + (b :: bs).length) := by
          have := r.isLt
          omega
        simp only [spriteHit, h1, decide_false, Bool.false_and]
      rw [this]
      exact Drawn.refl s

end Sys2Proof.Machine
end

