-- ==== Sys2Proof/Laws/Exec.lean ====
section
/-! SUPPORT. Everything an instruction can do when it answers a next state, said once for every constructor: its effect
(`Effect`), then `pc` moves to an address inside memory, or stays, or a fault is taken (`Goes`). -/

namespace Sys2Proof.Machine

/-- The faults an instruction can take, with what they record (spec/60_exceptions.md R200). -/
def InstrFault : Fault → Prop
  | .memoryOverflow a => 4096 ≤ a
  | .registerIndexOverflow _ => False
  | .indexRegisterOverflow v => 4096 ≤ v
  | .programCounterOverflow t => 4096 ≤ t
  | .stackUnderflow => True
  | .renderFailure => False
  | .stackOverflow => True
  | .keyIndexOutOfRange k => 16 ≤ k
  | .inputStateInvariant _ => False

/-- How an instruction ends after its effect led to `u`. -/
def Goes (u t : State) : Prop :=
  t = u ∨ (∃ p : Word, p.toNat < 4096 ∧ t = u.setPc p) ∨ ∃ f, InstrFault f ∧ t = takeFault f u

/-- The flag that a register operation of category 8 writes after its result. -/
def ResultThenFlag (x : Nibble) (s u : State) : Prop := ∃ b f, u = (s.setReg x b).setReg vf f

/-- The effect of an instruction, as far as it came: the fields it writes, with the bounds on what they get. -/
def Effect (i : Instr) (s u : State) : Prop :=
  match i with
  | .clear => ∃ d, u = s.setDisp d
  | .ret => u = s ∨ ∃ t rest, s.stack = t :: rest ∧ u = s.setStack rest
  | .sys _ => u = s
  | .jump _ => u = s
  | .call _ => u = s ∨ s.pc.toNat + 2 < 4096 ∧ s.params.stackDepth ≠ some s.stack.length
      ∧ u = s.setStack (BitVec.ofNat 16 (s.pc.toNat + 2) :: s.stack)
  | .skipEqImm _ _ => u = s
  | .skipNeImm _ _ => u = s
  | .skipEq _ _ => u = s
  | .setImm x nn => u = s.setReg x nn
  | .addImm x nn => u = s.setReg x (s.reg x + nn)
  | .set x y => u = s.setReg x (s.reg y)
  | .or x _ => ResultThenFlag x s u
  | .and x _ => ResultThenFlag x s u
  | .xor x _ => ResultThenFlag x s u
  | .add x _ => ResultThenFlag x s u
  | .sub x _ => ResultThenFlag x s u
  | .shr x _ => ResultThenFlag x s u
  | .subN x _ => ResultThenFlag x s u
  | .shl x _ => ResultThenFlag x s u
  | .skipNe _ _ => u = s
  | .setIndex nnn => u = s.setIndex (BitVec.ofNat 16 nnn.toNat)
  | .jumpOffset _ => u = s
  | .random x nn => u = (s.setDraws (s.draws + 1)).setReg x (Config.randByte s.draws &&& nn)
  | .draw _ _ _ => u = s ∨ ∃ d b f, (s.dirty = true → b = true) ∧ u = ((s.setDisp d).setDirty b).setReg vf f
  | .skipKey _ => u = s
  | .skipNotKey _ => u = s
  | .getDelay x => u = s.setReg x s.dt
  | .getKey x => u = s.setIstate .paused ∧ s.istate = .idle ∨ u = s ∧ s.istate ≠ .idle
      ∨ ∃ k : Fin 16, u = (s.setReg x (BitVec.ofNat 8 k.val)).setIstate .idle
  | .setDelay x => u = s.setDt (s.reg x)
  | .setSound x => u = s.setSt (s.reg x)
  | .addIndex _ => u = s ∨ ∃ v < 4096, u = s.setIndex (BitVec.ofNat 16 v)
  | .font _ => u = s ∨ ∃ v < 4096, u = s.setIndex (BitVec.ofNat 16 v)
  | .bcd _ => ∃ m, (Memory.wf s.mem = true → Memory.wf m = true ∧
      ∀ a, a < s.index.toNat ∨ s.index.toNat + 2 < a → Memory.read m a = Memory.read s.mem a) ∧ u = s.setMem m
  | .store x => ∃ m, (Memory.wf s.mem = true → Memory.wf m = true ∧
      ∀ a, a < s.index.toNat ∨ s.index.toNat + x.toNat < a → Memory.read m a = Memory.read s.mem a) ∧
      (u = s.setMem m ∨ ∃ v < 4096, u = (s.setMem m).setIndex (BitVec.ofNat 16 v))
  | .restore x => ∃ v, (∀ y : Nibble, x.toNat < y.toNat → (s.setV v).reg y = s.reg y) ∧
      (u = s.setV v ∨ ∃ a < 4096, u = (s.setV v).setIndex (BitVec.ofNat 16 a))
  | .unknown w => u = s.emit (.unknownOpcode w)

section
variable {m : Exec Unit} {s t u : State}

theorem goes_fault {f : Fault} (h : finish m s = .next t) (hm : m s = .error (.fault f) u) (hf : InstrFault f) :
    Goes u t := by
  rw [finish_fault m s u hm] at h
  cases h
  exact .inr (.inr ⟨f, hf, rfl⟩)

theorem goes_jump {p : Nat} (h : finish m s = .next t) (hm : m s = jumpTo p u) : Goes u t := by
  rw [jumpTo_run] at hm
  split at hm
  · rw [finish_ok m s _ hm] at h
    cases h
    exact .inr (.inl ⟨_, by rw [BitVec.toNat_ofNat]; omega, rfl⟩)
  · exact goes_fault h hm (by simp only [InstrFault]; omega)

theorem goes_advance {k : Nat} (h : finish m s = .next t) (hm : m s = advance k u) : Goes u t := goes_jump h hm

theorem goes_setI {v : Nat} (h : finish m s = .next t) (hm : m s = (setI v >>= fun _ => advance 2) u) :
    ∃ u', (u' = u ∨ v < 4096 ∧ u' = u.setIndex (BitVec.ofNat 16 v)) ∧ Goes u' t := by
  rw [bind_run, setI_run] at hm
  split at hm
  · rename_i hv
    split at hv
    · cases hv
      exact ⟨_, .inr ⟨‹_›, rfl⟩, goes_advance h hm⟩
    · cases hv
  · rename_i hv
    split at hv
    · cases hv
    · cases hv
      exact ⟨_, .inl rfl, goes_fault h hm (by simp only [InstrFault]; omega)⟩

/-- The operations of category 8 that write a flag. -/
theorem aluStep_next {op : AluOp} {x y : Nibble} (h : finish (aluStep op x y) s = .next t)
    (hf : (aluFlag op (s.reg x) (s.reg y)).isSome = true) : ∃ u, ResultThenFlag x s u ∧ Goes u t := by
  obtain ⟨f, hf⟩ := Option.isSome_iff_exists.mp hf
  exact ⟨_, ⟨aluResult op (s.reg x) (s.reg y), f, rfl⟩, goes_advance (k := 2) h (by simp [aluStep, hf, writeFlag])⟩

theorem readKey_next {x : Nibble} {g : Bool → Exec Unit} (h : finish (readKey x >>= g) s = .next t)
    (hg : ∀ b, ∃ k, g b s = advance k s) : ∃ u, u = s ∧ Goes u t := by
  refine ⟨s, rfl, ?_⟩
  by_cases hk : (s.reg x).toNat < 16
  · obtain ⟨k, hk'⟩ := hg (s.key ⟨(s.reg x).toNat, hk⟩)
    exact goes_advance h (k := k) (by simp [readKey_run, hk, hk'])
  · exact goes_fault h (by simp [readKey_run, hk]; rfl) (by simp only [InstrFault]; omega)

end

theorem skipIf_run (c : Bool) (s : State) : ∃ k, skipIf c s = advance k s := by
  cases c
  · exact ⟨2, rfl⟩
  · exact ⟨4, rfl⟩

theorem execBcd_next {x : Nibble} {s t : State} (h : execBcd x s = .next t) :
    ∃ u, Effect (.bcd x) s u ∧ Goes u t := by
  have w0 (hw : Memory.wf s.mem = true) (h0 : s.index.toNat < 4096) :=
    Memory.write_wf hw h0 (hundreds (s.reg x))
  have w1 (hw : Memory.wf s.mem = true) (h0 : s.index.toNat < 4096) (h1 : s.index.toNat + 1 < 4096) :=
    Memory.write_wf (w0 hw h0) h1 (tens (s.reg x))
  by_cases h0 : s.index.toNat < 4096
  · by_cases h1 : s.index.toNat + 1 < 4096
    · by_cases h2 : s.index.toNat + 2 < 4096
      · refine ⟨_, ⟨_, fun hw => ⟨Memory.write_wf (w1 hw h0 h1) h2 (ones (s.reg x)), fun a ha => ?_⟩, rfl⟩,
          goes_advance (k := 2) h (by simp [memWrite_run, h0, h1, h2]; rfl)⟩
        rw [Memory.read_write (w1 hw h0 h1), Memory.read_write (w0 hw h0), Memory.read_write hw, if_neg (by omega),
          if_neg (by omega), if_neg (by omega)]
      · refine ⟨_, ⟨_, fun hw => ⟨w1 hw h0 h1, fun a ha => ?_⟩, rfl⟩,
          goes_fault (f := .memoryOverflow (s.index.toNat + 2)) h (by simp [memWrite_run, h0, h1, h2]; rfl)
            (Nat.not_lt.mp h2)⟩
        rw [Memory.read_write (w0 hw h0), Memory.read_write hw, if_neg (by omega), if_neg (by omega)]
    · refine ⟨_, ⟨_, fun hw => ⟨w0 hw h0, fun a ha => ?_⟩, rfl⟩,
        goes_fault (f := .memoryOverflow (s.index.toNat + 1)) h (by simp [memWrite_run, h0, h1])
          (Nat.not_lt.mp h1)⟩
      rw [Memory.read_write hw, if_neg (by omega)]
  · exact ⟨s, ⟨s.mem, fun hw => ⟨hw, fun _ _ => rfl⟩, rfl⟩,
      goes_fault h (by simp [memWrite_run, h0]; rfl) (by simp only [InstrFault]; omega)⟩

theorem execDraw_next {x y n : Nibble} {s t : State} (h : execDraw x y n s = .next t) :
    ∃ u, Effect (.draw x y n) s u ∧ Goes u t := by
  by_cases hn : n.toNat = 0 ∨ s.index.toNat + n.toNat ≤ 4096
  · have hd := drawRows_drawn (anchorColumn (s.reg x)) (anchorRow (s.reg y))
      ((List.range n.toNat).map fun k => Memory.read s.mem (s.index.toNat + k)) (s.setReg vf 0#8)
    obtain ⟨d, b, f, hf⟩ := hd.frame
    refine ⟨_, .inr ⟨d, b, f, fun hs => ?_, rfl⟩, goes_advance (k := 2) h ?_⟩
    · have := hd.dirty.mpr (.inl hs)
      rwa [hf] at this
    · simp only [bind_run, readVx_run, readIndex_run, readSprite_ok hn, writeVx_run, modifyState_run, hf]
      rw [← State.setReg_setReg ((s.setDisp d).setDirty b) vf 0#8 f]
      rfl
  · exact ⟨s, .inl rfl, goes_fault h
      (by simp [readSprite_fault (show 0 < n.toNat by omega) (show 4096 < s.index.toNat + n.toNat by omega)]; rfl)
      (by simp only [InstrFault]; omega)⟩

theorem execStore_next {x : Nibble} {s t : State} (h : execStore x s = .next t) :
    ∃ u, Effect (.store x) s u ∧ Goes u t := by
  have hx : x.toNat < 16 := x.isLt
  obtain ⟨m, hm, hc⟩ := storeRegs_cases s s.index.toNat (x.toNat + 1) 0 (by omega)
  have hm' : Memory.wf s.mem = true → Memory.wf m = true ∧
      ∀ a, a < s.index.toNat ∨ s.index.toNat + x.toNat < a → Memory.read m a = Memory.read s.mem a := fun hw =>
    ⟨(hm hw).1, fun a ha => (hm hw).2 a (by omega)⟩
  rcases hc with hc | ⟨a, ha, hc⟩
  · obtain ⟨u, hu, hg⟩ := goes_setI (v := s.index.toNat + x.toNat + 1) (u := s.setMem m) h (by simp [hc])
    rcases hu with rfl | ⟨hv, rfl⟩
    · exact ⟨_, ⟨m, hm', .inl rfl⟩, hg⟩
    · exact ⟨_, ⟨m, hm', .inr ⟨_, hv, rfl⟩⟩, hg⟩
  · exact ⟨_, ⟨m, hm', .inl rfl⟩, goes_fault (f := .memoryOverflow a) h (by simp [hc]) ha⟩

theorem execRestore_next {x : Nibble} {s t : State} (h : execRestore x s = .next t) :
    ∃ u, Effect (.restore x) s u ∧ Goes u t := by
  have hx : x.toNat < 16 := x.isLt
  obtain ⟨v, hv, hc⟩ := restoreRegs_cases s s.index.toNat (x.toNat + 1) 0 (by omega)
  have hv' (y : Nibble) (hy : x.toNat < y.toNat) := hv y (by omega)
  rcases hc with hc | ⟨a, ha, hc⟩
  · obtain ⟨u, hu, hg⟩ := goes_setI (v := s.index.toNat + x.toNat + 1) (u := s.setV v) h (by simp [hc])
    rcases hu with rfl | ⟨hi, rfl⟩
    · exact ⟨_, ⟨v, hv', .inl rfl⟩, hg⟩
    · exact ⟨_, ⟨v, hv', .inr ⟨_, hi, rfl⟩⟩, hg⟩
  · exact ⟨_, ⟨v, hv', .inl rfl⟩, goes_fault (f := .memoryOverflow a) h (by simp [hc]) ha⟩

theorem execRet_next {s t : State} (h : execRet s = .next t) : ∃ u, Effect .ret s u ∧ Goes u t := by
  cases hs : s.stack with
  | nil => exact ⟨s, .inl rfl, goes_fault (f := .stackUnderflow) h (by simp [popReturn_run, hs]) trivial⟩
  | cons p rest => exact ⟨_, .inr ⟨p, rest, hs, rfl⟩, goes_jump (p := p.toNat) h (by simp [popReturn_run, hs])⟩

theorem execCall_next {nnn : Addr} {s t : State} (h : execCall nnn s = .next t) :
    ∃ u, Effect (.call nnn) s u ∧ Goes u t := by
  by_cases hp : s.pc.toNat + 2 < 4096
  · by_cases hd : s.params.stackDepth = some s.stack.length
    · exact ⟨s, .inl rfl, goes_fault (f := .stackOverflow) h (by simp [pushReturn_run, hp, hd]) trivial⟩
    · exact ⟨_, .inr ⟨hp, hd, rfl⟩, goes_jump (p := nnn.toNat) h (by simp [pushReturn_run, hp, hd])⟩
  · exact ⟨s, .inl rfl, goes_fault h (by simp [pushReturn_run, hp]; rfl) (by simp only [InstrFault]; omega)⟩

theorem execJumpOffset_next {nnn : Addr} {s t : State} (h : execJumpOffset nnn s = .next t) :
    ∃ u, Effect (.jumpOffset nnn) s u ∧ Goes u t := by
  cases hm : jumpOffsetReg s.params.bnnnMode nnn with
  | none =>
    rw [execJumpOffset, finish_refuse (t := s) _ _ (by simp [hm]; rfl)] at h
    cases h
  | some x => exact ⟨s, rfl, goes_jump (p := nnn.toNat + (s.reg x).toNat) h (by simp [hm])⟩

theorem execGetKey_next {x : Nibble} {s t : State} (h : execGetKey x s = .next t) :
    ∃ u, Effect (.getKey x) s u ∧ Goes u t := by
  unfold execGetKey at h
  cases hi : s.istate with
  | idle =>
    rw [finish_ok (t := s.setIstate .paused) _ _ (by simp [hi])] at h
    cases h
    exact ⟨_, .inl ⟨rfl, hi⟩, .inl rfl⟩
  | paused =>
    rw [finish_ok (t := s) _ _ (by simp [hi])] at h
    cases h
    exact ⟨_, .inr (.inl ⟨rfl, by simp [hi]⟩), .inl rfl⟩
  | pressed k =>
    rw [finish_ok (t := s) _ _ (by simp [hi])] at h
    cases h
    exact ⟨_, .inr (.inl ⟨rfl, by simp [hi]⟩), .inl rfl⟩
  | released k => exact ⟨_, .inr (.inr ⟨k, rfl⟩), goes_advance (k := 2) h (by simp [hi])⟩

/-- Everything an instruction that answers a next state does. -/
theorem exec_next {i : Instr} {s t : State} (h : exec i s = .next t) : ∃ u, Effect i s u ∧ Goes u t := by
  cases i with
  | clear => exact ⟨_, ⟨_, rfl⟩, goes_advance (k := 2) h (by simp; rfl)⟩
  | ret => exact execRet_next h
  | sys nnn => exact ⟨s, rfl, goes_advance h rfl⟩
  | jump nnn => exact ⟨s, rfl, goes_jump h rfl⟩
  | call nnn => exact execCall_next h
  | skipEqImm x nn =>
    obtain ⟨k, hk⟩ := skipIf_run (s.reg x == nn) s
    exact ⟨s, rfl, goes_advance (k := k) h (by simp [hk])⟩
  | skipNeImm x nn =>
    obtain ⟨k, hk⟩ := skipIf_run (s.reg x != nn) s
    exact ⟨s, rfl, goes_advance (k := k) h (by simp [hk])⟩
  | skipEq x y =>
    obtain ⟨k, hk⟩ := skipIf_run (s.reg x == s.reg y) s
    exact ⟨s, rfl, goes_advance (k := k) h (by simp [hk])⟩
  | setImm x nn => exact ⟨_, rfl, goes_advance (k := 2) h (by simp)⟩
  | addImm x nn => exact ⟨_, rfl, goes_advance (k := 2) h (by simp)⟩
  | set x y => exact ⟨_, rfl, goes_advance (k := 2) h (by simp [aluStep, aluResult, aluFlag, writeFlag])⟩
  | or x y => exact aluStep_next h rfl
  | and x y => exact aluStep_next h rfl
  | xor x y => exact aluStep_next h rfl
  | add x y => exact aluStep_next h rfl
  | sub x y => exact aluStep_next h rfl
  | shr x y => exact aluStep_next h rfl
  | subN x y => exact aluStep_next h rfl
  | shl x y => exact aluStep_next h rfl
  | skipNe x y =>
    obtain ⟨k, hk⟩ := skipIf_run (s.reg x != s.reg y) s
    exact ⟨s, rfl, goes_advance (k := k) h (by simp [hk])⟩
  | setIndex nnn =>
    have := nnn.isLt
    exact ⟨_, rfl, goes_advance (k := 2) h (by simp [setI_run, show nnn.toNat < 4096 by omega])⟩
  | jumpOffset nnn => exact execJumpOffset_next h
  | random x nn => exact ⟨_, rfl, goes_advance (k := 2) h (by simp)⟩
  | draw x y n => exact execDraw_next h
  | skipKey x => exact readKey_next h fun b => skipIf_run b s
  | skipNotKey x => exact readKey_next h fun b => skipIf_run (!b) s
  | getDelay x => exact ⟨_, rfl, goes_advance (k := 2) h (by simp)⟩
  | getKey x => exact execGetKey_next h
  | setDelay x => exact ⟨_, rfl, goes_advance (k := 2) h (by simp)⟩
  | setSound x => exact ⟨_, rfl, goes_advance (k := 2) h (by simp)⟩
  | addIndex x =>
    obtain ⟨u, hu, hg⟩ := goes_setI (v := s.index.toNat + (s.reg x).toNat) (u := s) h (by simp)
    exact ⟨u, hu.imp id fun e => ⟨_, e⟩, hg⟩
  | font x =>
    obtain ⟨u, hu, hg⟩ := goes_setI (v := (s.reg x).toNat * s.fontBaseValue) (u := s) h (by simp)
    exact ⟨u, hu.imp id fun e => ⟨_, e⟩, hg⟩
  | bcd x => exact execBcd_next h
  | store x => exact execStore_next h
  | restore x => exact execRestore_next h
  | unknown w => exact ⟨_, rfl, goes_advance (k := 2) h (by simp)⟩

end Sys2Proof.Machine
end

