-- ==== Sys2Proof/Laws/PerInstr.lean ====
section
/-! SUPPORT. Statements made of every instruction, one lemma per constructor. -/

namespace Sys2Proof.Laws.RowMatch

/-- The word of an instruction matches the instruction's own row of spec/opcode_table.json. -/
def Statement (i : Instr) : Prop := rowMatches (rowOf i) (encode i) = true

theorem clear : Statement (.clear) := rfl

theorem ret : Statement (.ret) := rfl

theorem sys (nnn : Addr) : Statement (.sys nnn) := by
  simp only [Statement, rowMatches, rowOf, encode, mask_wordNNN]
  rfl

theorem jump (nnn : Addr) : Statement (.jump nnn) := by
  simp only [Statement, rowMatches, rowOf, encode, mask_wordNNN]
  rfl

theorem call (nnn : Addr) : Statement (.call nnn) := by
  simp only [Statement, rowMatches, rowOf, encode, mask_wordNNN]
  rfl

theorem skipEqImm (x : Nibble) (nn : Byte) : Statement (.skipEqImm x nn) := by
  simp only [Statement, rowMatches, rowOf, encode, mask_wordXNN]
  rfl

theorem skipNeImm (x : Nibble) (nn : Byte) : Statement (.skipNeImm x nn) := by
  simp only [Statement, rowMatches, rowOf, encode, mask_wordXNN]
  rfl

theorem skipEq (x y : Nibble) : Statement (.skipEq x y) := by
  simp only [Statement, rowMatches, rowOf, encode, mask_wordXYN_nibble]
  rfl

theorem setImm (x : Nibble) (nn : Byte) : Statement (.setImm x nn) := by
  simp only [Statement, rowMatches, rowOf, encode, mask_wordXNN]
  rfl

theorem addImm (x : Nibble) (nn : Byte) : Statement (.addImm x nn) := by
  simp only [Statement, rowMatches, rowOf, encode, mask_wordXNN]
  rfl

theorem set (x y : Nibble) : Statement (.set x y) := by
  simp only [Statement, rowMatches, rowOf, encode, mask_wordXYN_nibble]
  rfl

theorem or (x y : Nibble) : Statement (.or x y) := by
  simp only [Statement, rowMatches, rowOf, encode, mask_wordXYN_nibble]
  rfl

theorem and (x y : Nibble) : Statement (.and x y) := by
  simp only [Statement, rowMatches, rowOf, encode, mask_wordXYN_nibble]
  rfl

theorem xor (x y : Nibble) : Statement (.xor x y) := by
  simp only [Statement, rowMatches, rowOf, encode, mask_wordXYN_nibble]
  rfl

theorem add (x y : Nibble) : Statement (.add x y) := by
  simp only [Statement, rowMatches, rowOf, encode, mask_wordXYN_nibble]
  rfl

theorem sub (x y : Nibble) : Statement (.sub x y) := by
  simp only [Statement, rowMatches, rowOf, encode, mask_wordXYN_nibble]
  rfl

theorem shr (x y : Nibble) : Statement (.shr x y) := by
  simp only [Statement, rowMatches, rowOf, encode, mask_wordXYN_nibble]
  rfl

theorem subN (x y : Nibble) : Statement (.subN x y) := by
  simp only [Statement, rowMatches, rowOf, encode, mask_wordXYN_nibble]
  rfl

theorem shl (x y : Nibble) : Statement (.shl x y) := by
  simp only [Statement, rowMatches, rowOf, encode, mask_wordXYN_nibble]
  rfl

theorem skipNe (x y : Nibble) : Statement (.skipNe x y) := by
  simp only [Statement, rowMatches, rowOf, encode, mask_wordXYN_nibble]
  rfl

theorem setIndex (nnn : Addr) : Statement (.setIndex nnn) := by
  simp only [Statement, rowMatches, rowOf, encode, mask_wordNNN]
  rfl

theorem jumpOffset (nnn : Addr) : Statement (.jumpOffset nnn) := by
  simp only [Statement, rowMatches, rowOf, encode, mask_wordNNN]
  rfl

theorem random (x : Nibble) (nn : Byte) : Statement (.random x nn) := by
  simp only [Statement, rowMatches, rowOf, encode, mask_wordXNN]
  rfl

theorem draw (x y n : Nibble) : Statement (.draw x y n) := by
  simp only [Statement, rowMatches, rowOf, encode, mask_wordXYN]
  rfl

theorem skipKey (x : Nibble) : Statement (.skipKey x) := by
  simp only [Statement, rowMatches, rowOf, encode, mask_wordXNN_byte]
  rfl

theorem skipNotKey (x : Nibble) : Statement (.skipNotKey x) := by
  simp only [Statement, rowMatches, rowOf, encode, mask_wordXNN_byte]
  rfl

theorem getDelay (x : Nibble) : Statement (.getDelay x) := by
  simp only [Statement, rowMatches, rowOf, encode, mask_wordXNN_byte]
  rfl

theorem getKey (x : Nibble) : Statement (.getKey x) := by
  simp only [Statement, rowMatches, rowOf, encode, mask_wordXNN_byte]
  rfl

theorem setDelay (x : Nibble) : Statement (.setDelay x) := by
  simp only [Statement, rowMatches, rowOf, encode, mask_wordXNN_byte]
  rfl

theorem setSound (x : Nibble) : Statement (.setSound x) := by
  simp only [Statement, rowMatches, rowOf, encode, mask_wordXNN_byte]
  rfl

theorem addIndex (x : Nibble) : Statement (.addIndex x) := by
  simp only [Statement, rowMatches, rowOf, encode, mask_wordXNN_byte]
  rfl

theorem font (x : Nibble) : Statement (.font x) := by
  simp only [Statement, rowMatches, rowOf, encode, mask_wordXNN_byte]
  rfl

theorem bcd (x : Nibble) : Statement (.bcd x) := by
  simp only [Statement, rowMatches, rowOf, encode, mask_wordXNN_byte]
  rfl

theorem store (x : Nibble) : Statement (.store x) := by
  simp only [Statement, rowMatches, rowOf, encode, mask_wordXNN_byte]
  rfl

theorem restore (x : Nibble) : Statement (.restore x) := by
  simp only [Statement, rowMatches, rowOf, encode, mask_wordXNN_byte]
  rfl

theorem unknown (w : Word) : Statement (.unknown w) := by
  simp [Statement, rowMatches, rowOf]

end Sys2Proof.Laws.RowMatch
end

