-- ==== Sys2Proof/Laws/Step.lean ====
section
/-! SUPPORT. What the host's schedule and a step can do, said once (spec/10_state.md R38, spec/70_reset_and_hazards.md
R243). -/

namespace Sys2Proof.Machine

section
variable {s : State} {t : Transaction}

theorem nextTransaction_script {rest : List Transaction} (h : s.script = t :: rest) :
    nextTransaction s = (t, s.setScript rest) := by rw [nextTransaction, h]

theorem nextTransaction_onward (h : s.script = []) :
    nextTransaction s = ((takeOnward s.onward).1, s.setOnward (takeOnward s.onward).2) := by rw [nextTransaction, h]

/-- Taking the next transaction changes the schedule alone. -/
theorem nextTransaction_frame {u : State} (h : nextTransaction s = (t, u)) :
    (∃ l, u = s.setScript l) ∨ ∃ o, u = s.setOnward o := by
  cases hs : s.script with
  | nil =>
    rw [nextTransaction_onward hs] at h
    cases h
    exact .inr ⟨_, rfl⟩
  | cons t' rest =>
    rw [nextTransaction_script hs] at h
    cases h
    exact .inl ⟨_, rfl⟩

/-- A step is the transaction that the schedule gives. -/
theorem step_of_nextTransaction {u : State} (h : nextTransaction s = (t, u)) : step s = transact t u := by
  rw [step, h]

end

/-- An endless schedule after `k` of its transactions have been issued. -/
def onwardAfter : Nat → Onward → Onward
  | 0, o => o
  | k + 1, o => (takeOnward (onwardAfter k o)).2

/-- An endless repetition stays one, of its list rotated. -/
theorem onwardAfter_repeating (t : Transaction) (ts : List Transaction) (k : Nat) :
    ∃ u us, onwardAfter k (.repeating t ts) = .repeating u us ∧ u :: us = (t :: ts).rotate k := by
  induction k with
  | zero => exact ⟨t, ts, rfl, (List.rotate_zero _).symm⟩
  | succ k ih =>
    obtain ⟨u, us, ho, hl⟩ := ih
    rw [onwardAfter, ho, ← List.rotate_rotate, ← hl, List.rotate_cons_succ, List.rotate_zero]
    cases us with
    | nil => exact ⟨u, [], rfl, rfl⟩
    | cons v vs => exact ⟨v, vs ++ [u], rfl, rfl⟩

/-- Transaction number `k` of an endless repetition is number `k` of its list, counted round and round: step, tick,
step, tick without end is such a schedule (R243). -/
theorem repeating_issues (t : Transaction) (ts : List Transaction) (k : Nat) :
    (t :: ts)[k % (t :: ts).length]? = some (takeOnward (onwardAfter k (.repeating t ts))).1 := by
  obtain ⟨u, us, ho, hl⟩ := onwardAfter_repeating t ts k
  have hu : (takeOnward (.repeating u us)).1 = u := by cases us <;> rfl
  have hk : k % (t :: ts).length < (t :: ts).length := Nat.mod_lt k (Nat.succ_pos _)
  rw [ho, hu, ← List.head?_rotate hk, List.rotate_mod, ← hl, List.head?_cons]

/-- Transaction number `k` of a free schedule is the host's choice number `n + k`. -/
theorem onwardAfter_free (n k : Nat) : onwardAfter k (.free n) = .free (n + k) := by
  induction k with
  | zero => rfl
  | succ k ih => rw [onwardAfter, ih]; rfl

end Sys2Proof.Machine
end

