-- ==== Sys2Proof/Tests/Slice0.lean ====
section
/-! SUPPORT. Small tests, and for every statement with hypotheses a state and operands that meet them. Expected values
come from spec/95_test_vectors.md (its sections are named at each group) or are worked out by hand from the rules. -/

namespace Sys2Proof.Tests

open Sys2Proof Sys2Proof.Machine

/-! ## Helpers -/

/-- The boot state of the test vectors: FONT_BASE = 0x050, CART_BASE = pc = 0x200, everything else as constructed; and a
host that issues `step` and nothing else. -/
def boot : State :=
  (((State.reset.setFontBase (some 0x050#12)).setCartBase (some 0x200#12)).setPc 0x200#16).setOnward (.repeating .step [])

/-- `boot` with some registers written. -/
def regs (l : List (Nibble × Byte)) : State := l.foldl (fun s p => s.setReg p.1 p.2) boot

/-- `boot` with a byte of memory written. -/
def bytes (l : List (Nat × Byte)) (s : State) : State :=
  s.setMem (l.foldl (fun m p => Memory.write m p.1 p.2) s.mem)

/-- One step of `s` with the word `w` at `pc`, and a test of the next state. -/
def stepsTo (w : Nat) (s : State) (p : State → Bool) : Bool :=
  match step (s.withFetchWord 16 w) with
  | .next t => p t
  | .fault _ => false
  | .refused _ => false

/-- A next state that passes a test. -/
def nextSat (r : Result) (p : State → Bool) : Bool :=
  match r with
  | .next t => p t
  | .fault _ => false
  | .refused _ => false

/-- A refusal. -/
def isRefused (r : Result) : Bool :=
  match r with
  | .next _ => false
  | .fault _ => false
  | .refused _ => true

/-- The run state is Halted with this fault, and so is the newest event. -/
def haltedBy (f : Fault) (t : State) : Bool := t.run == .halted f && t.events.head? == some (.halted f)

/-! ## WellFormed: one ill-formed term for each check (R74, R80) -/

theorem test_wf_sys_not_clear : wellFormed (.sys 0x0E0#12) = false := by decide

theorem test_wf_sys_not_return : wellFormed (.sys 0xFEE#12) = false := by decide

theorem test_wf_unknown_named_cat1 : wellFormed (.unknown 0x1ABC#16) = false := by decide

theorem test_wf_unknown_not_5xy0 : wellFormed (.unknown 0x5670#16) = false ∧ wellFormed (.unknown 0x5671#16) = true := by decide

theorem test_wf_unknown_not_8xye : wellFormed (.unknown 0x8ABE#16) = false ∧ wellFormed (.unknown 0x8ABF#16) = true := by decide

theorem test_wf_unknown_not_9xy0 : wellFormed (.unknown 0x9AB0#16) = false ∧ wellFormed (.unknown 0x9AB1#16) = true := by decide

theorem test_wf_unknown_not_ex9e : wellFormed (.unknown 0xE09E#16) = false ∧ wellFormed (.unknown 0xE09F#16) = true := by decide

theorem test_wf_unknown_not_fx65 : wellFormed (.unknown 0xF065#16) = false ∧ wellFormed (.unknown 0xF0FF#16) = true := by decide

/-! ## Decoding: every constructor by a word written out from its row (spec/30_encoding.md R73–R80, spec/95 1 and 2.1) -/

theorem test_dec_clear : decode (BitVec.ofNat 16 0b0000_0000_1110_0000) = .clear := by decide

theorem test_dec_clear_any_nibble : decode (BitVec.ofNat 16 0b0000_0001_1110_0000) = .clear := by decide

theorem test_dec_ret : decode (BitVec.ofNat 16 0b0000_0000_1110_1110) = .ret := by decide

theorem test_dec_ret_any_nibble : decode (BitVec.ofNat 16 0b0000_1111_1110_1110) = .ret := by decide

theorem test_dec_sys : decode (BitVec.ofNat 16 0b0000_0001_0010_0011) = .sys 0x123#12 := by decide

theorem test_dec_jump : decode (BitVec.ofNat 16 0b0001_1010_1011_1100) = .jump 0xABC#12 := by decide

theorem test_dec_call : decode (BitVec.ofNat 16 0b0010_1111_1111_1111) = .call 0xFFF#12 := by decide

theorem test_dec_skipEqImm : decode (BitVec.ofNat 16 0b0011_1010_0111_1111) = .skipEqImm 0xA#4 0x7F#8 := by decide

theorem test_dec_skipNeImm : decode (BitVec.ofNat 16 0b0100_1010_0000_0000) = .skipNeImm 0xA#4 0x00#8 := by decide

theorem test_dec_skipEq : decode (BitVec.ofNat 16 0b0101_0110_0111_0000) = .skipEq 0x6#4 0x7#4 := by decide

theorem test_dec_setImm : decode (BitVec.ofNat 16 0b0110_1111_0001_0010) = .setImm 0xF#4 0x12#8 := by decide

theorem test_dec_addImm : decode (BitVec.ofNat 16 0b0111_0011_1000_0001) = .addImm 0x3#4 0x81#8 := by decide

theorem test_dec_set : decode (BitVec.ofNat 16 0b1000_1010_1011_0000) = .set 0xA#4 0xB#4 := by decide

theorem test_dec_or : decode (BitVec.ofNat 16 0b1000_1010_1011_0001) = .or 0xA#4 0xB#4 := by decide

theorem test_dec_and : decode (BitVec.ofNat 16 0b1000_1010_1011_0010) = .and 0xA#4 0xB#4 := by decide

theorem test_dec_xor : decode (BitVec.ofNat 16 0b1000_1010_1011_0011) = .xor 0xA#4 0xB#4 := by decide

theorem test_dec_add : decode (BitVec.ofNat 16 0b1000_1010_1011_0100) = .add 0xA#4 0xB#4 := by decide

theorem test_dec_sub : decode (BitVec.ofNat 16 0b1000_1010_1011_0101) = .sub 0xA#4 0xB#4 := by decide

theorem test_dec_shr : decode (BitVec.ofNat 16 0b1000_1010_1011_0110) = .shr 0xA#4 0xB#4 := by decide

theorem test_dec_subN : decode (BitVec.ofNat 16 0b1000_1010_1011_0111) = .subN 0xA#4 0xB#4 := by decide

theorem test_dec_shl : decode (BitVec.ofNat 16 0b1000_1010_1011_1110) = .shl 0xA#4 0xB#4 := by decide

theorem test_dec_skipNe : decode (BitVec.ofNat 16 0b1001_1010_1011_0000) = .skipNe 0xA#4 0xB#4 := by decide

theorem test_dec_setIndex : decode (BitVec.ofNat 16 0b1010_1111_1111_1111) = .setIndex 0xFFF#12 := by decide

theorem test_dec_jumpOffset : decode (BitVec.ofNat 16 0b1011_0001_0010_0011) = .jumpOffset 0x123#12 := by decide

theorem test_dec_random : decode (BitVec.ofNat 16 0b1100_0011_0000_1111) = .random 0x3#4 0x0F#8 := by decide

theorem test_dec_draw : decode (BitVec.ofNat 16 0b1101_0001_0010_0101) = .draw 0x1#4 0x2#4 0x5#4 := by decide

theorem test_dec_skipKey : decode (BitVec.ofNat 16 0b1110_0111_1001_1110) = .skipKey 0x7#4 := by decide

theorem test_dec_skipNotKey : decode (BitVec.ofNat 16 0b1110_0111_1010_0001) = .skipNotKey 0x7#4 := by decide

theorem test_dec_getDelay : decode (BitVec.ofNat 16 0b1111_0011_0000_0111) = .getDelay 0x3#4 := by decide

theorem test_dec_getKey : decode (BitVec.ofNat 16 0b1111_0011_0000_1010) = .getKey 0x3#4 := by decide

theorem test_dec_setDelay : decode (BitVec.ofNat 16 0b1111_0010_0001_0101) = .setDelay 0x2#4 := by decide

theorem test_dec_setSound : decode (BitVec.ofNat 16 0b1111_0100_0001_1000) = .setSound 0x4#4 := by decide

theorem test_dec_addIndex : decode (BitVec.ofNat 16 0b1111_0010_0001_1110) = .addIndex 0x2#4 := by decide

theorem test_dec_font : decode (BitVec.ofNat 16 0b1111_0001_0010_1001) = .font 0x1#4 := by decide

theorem test_dec_bcd : decode (BitVec.ofNat 16 0b1111_1001_0011_0011) = .bcd 0x9#4 := by decide

theorem test_dec_store : decode (BitVec.ofNat 16 0b1111_1111_0101_0101) = .store 0xF#4 := by decide

theorem test_dec_restore : decode (BitVec.ofNat 16 0b1111_0010_0110_0101) = .restore 0x2#4 := by decide

theorem test_dec_unknown : decode (BitVec.ofNat 16 0b0101_0110_0111_1000) = .unknown 0x5678#16 := by decide

theorem test_dec_category8_gap : (List.range 16).map (fun n => decode (BitVec.ofNat 16 (0x8AB0 + n)) == .unknown (BitVec.ofNat 16 (0x8AB0 + n)))
    = [false, false, false, false, false, false, false, false, true, true, true, true, true, true, false, true] := by decide

theorem test_dec_truncated : decodeBytes [0x12#8] = .error .truncated := rfl

theorem test_dec_table_word : decodeTableWord 16 0x8AB4 = some (.add 0xA#4 0xB#4) := by decide

/-! ## One step of each instruction (spec/95_test_vectors.md 1 and 2.2–2.7) -/

theorem test_exec_clear_keeps_dirty :
    stepsTo 0x00E0 (boot.setPixel 3 4 true)
      (fun t => !t.pixel 3 4 && !t.dirty && t.pc == 0x202#16) = true := by decide

theorem test_exec_ret_last_in_first_out :
    stepsTo 0x00EE (boot.setStack [0x30A#16, 0x206#16])
      (fun t => t.pc == 0x30A#16 && t.stack == [0x206#16]) = true := by decide

theorem test_exec_ret_underflow :
    stepsTo 0x00EE boot
      (fun t => haltedBy .stackUnderflow t && t.pc == 0x200#16) = true := by decide

theorem test_exec_sys_only_advances :
    stepsTo 0x0123 boot
      (fun t => t.pc == 0x202#16 && t.events == []) = true := by decide

theorem test_exec_jump_odd_target :
    stepsTo 0x1201 boot
      (fun t => t.pc == 0x201#16) = true := by decide

theorem test_exec_jump_from_top :
    stepsTo 0x1200 (boot.setPc 0xFFE#16)
      (fun t => t.pc == 0x200#16 && t.run == .running) = true := by decide

theorem test_exec_call_pushes :
    stepsTo 0x2210 (boot.setPc 0x204#16)
      (fun t => t.pc == 0x210#16 && t.stack == [0x206#16]) = true := by decide

theorem test_exec_call_checks_return :
    stepsTo 0x2200 (boot.setPc 0xFFE#16)
      (fun t => haltedBy (.programCounterOverflow 0x1000) t && t.stack == []) = true := by decide

theorem test_exec_skipEqImm_taken :
    stepsTo 0x3207 (regs [(2, 0x07)])
      (fun t => t.pc == 0x204#16) = true := by decide

theorem test_exec_skipEqImm_overflow :
    stepsTo 0x3000 (boot.setPc 0xFFC#16)
      (fun t => haltedBy (.programCounterOverflow 0x1000) t && t.pc == 0xFFC#16) = true := by decide

theorem test_exec_skipNeImm_not_taken :
    stepsTo 0x4207 (regs [(2, 0x07)])
      (fun t => t.pc == 0x202#16) = true := by decide

theorem test_exec_skipNeImm_taken :
    stepsTo 0x4208 (regs [(2, 0x07)])
      (fun t => t.pc == 0x204#16) = true := by decide

theorem test_exec_skipEq_taken :
    stepsTo 0x5670 (regs [(6, 0x10), (7, 0x10)])
      (fun t => t.pc == 0x204#16) = true := by decide

theorem test_exec_skipEq_not_taken :
    stepsTo 0x5670 (regs [(6, 0x10), (7, 0x11)])
      (fun t => t.pc == 0x202#16) = true := by decide

theorem test_exec_skipNe_taken :
    stepsTo 0x9120 (regs [(1, 0x01), (2, 0x02)])
      (fun t => t.pc == 0x204#16) = true := by decide

theorem test_exec_skipNe_same_register :
    stepsTo 0x9550 boot
      (fun t => t.pc == 0x202#16) = true := by decide

theorem test_exec_setImm_writes :
    stepsTo 0x6342 boot
      (fun t => t.reg 3 == 0x42#8 && t.pc == 0x202#16) = true := by decide

theorem test_exec_setImm_overflow_keeps_write :
    stepsTo 0x6011 (boot.setPc 0xFFE#16)
      (fun t => haltedBy (.programCounterOverflow 0x1000) t && t.reg 0 == 0x11#8 && t.pc == 0xFFE#16) = true := by decide

theorem test_exec_addImm_wraps_without_flag :
    stepsTo 0x7001 (regs [(0, 0xFF), (vf, 0x33)])
      (fun t => t.reg 0 == 0x00#8 && t.reg vf == 0x33#8) = true := by decide

theorem test_exec_addImm_vf_ordinary :
    stepsTo 0x7FFF (regs [(vf, 0x01)])
      (fun t => t.reg vf == 0x00#8) = true := by decide

theorem test_exec_set_keeps_flag :
    stepsTo 0x8010 (regs [(1, 0x9A), (vf, 0x55)])
      (fun t => t.reg 0 == 0x9A#8 && t.reg vf == 0x55#8) = true := by decide

theorem test_exec_or_clears_flag :
    stepsTo 0x8011 (regs [(0, 0xF0), (1, 0x0F), (vf, 0x55)])
      (fun t => t.reg 0 == 0xFF#8 && t.reg vf == 0x00#8) = true := by decide

theorem test_exec_or_into_vf :
    stepsTo 0x8F11 (regs [(vf, 0x12), (1, 0x34)])
      (fun t => t.reg vf == 0x00#8) = true := by decide

theorem test_exec_and_clears_flag :
    stepsTo 0x8012 (regs [(0, 0xF3), (1, 0x3F), (vf, 0x55)])
      (fun t => t.reg 0 == 0x33#8 && t.reg vf == 0x00#8) = true := by decide

theorem test_exec_xor_clears_flag :
    stepsTo 0x8013 (regs [(0, 0xF0), (1, 0xFF), (vf, 0x55)])
      (fun t => t.reg 0 == 0x0F#8 && t.reg vf == 0x00#8) = true := by decide

theorem test_exec_add_carry :
    stepsTo 0x8014 (regs [(0, 0xFF), (1, 0x01)])
      (fun t => t.reg 0 == 0x00#8 && t.reg vf == 0x01#8) = true := by decide

theorem test_exec_add_vf_both :
    stepsTo 0x8FF4 (regs [(vf, 0x90)])
      (fun t => t.reg vf == 0x01#8) = true := by decide

theorem test_exec_sub_borrow :
    stepsTo 0x8015 (regs [(0, 0x03), (1, 0x05), (vf, 0x55)])
      (fun t => t.reg 0 == 0xFE#8 && t.reg vf == 0x00#8) = true := by decide

theorem test_exec_sub_equal :
    stepsTo 0x8015 (regs [(0, 0xFF), (1, 0xFF)])
      (fun t => t.reg 0 == 0x00#8 && t.reg vf == 0x01#8) = true := by decide

theorem test_exec_shr_takes_vy :
    stepsTo 0x8016 (regs [(0, 0xF0), (1, 0x03)])
      (fun t => t.reg 0 == 0x01#8 && t.reg vf == 0x01#8 && t.reg 1 == 0x03#8) = true := by decide

theorem test_exec_shr_no_bit :
    stepsTo 0x8016 (regs [(1, 0x80), (vf, 0x55)])
      (fun t => t.reg 0 == 0x40#8 && t.reg vf == 0x00#8) = true := by decide

theorem test_exec_subN_borrow :
    stepsTo 0x8017 (regs [(0, 0x05), (1, 0x03), (vf, 0x55)])
      (fun t => t.reg 0 == 0xFE#8 && t.reg vf == 0x00#8) = true := by decide

theorem test_exec_subN_no_borrow :
    stepsTo 0x8017 (regs [(0, 0x03), (1, 0x05)])
      (fun t => t.reg 0 == 0x02#8 && t.reg vf == 0x01#8) = true := by decide

theorem test_exec_shl_bit_out :
    stepsTo 0x801E (regs [(1, 0x80)])
      (fun t => t.reg 0 == 0x00#8 && t.reg vf == 0x01#8) = true := by decide

theorem test_exec_shl_into_vf :
    stepsTo 0x8F1E (regs [(vf, 0x40), (1, 0x7F)])
      (fun t => t.reg vf == 0x00#8) = true := by decide

theorem test_exec_setIndex_loads :
    stepsTo 0xA300 boot
      (fun t => t.index == 0x300#16 && t.pc == 0x202#16) = true := by decide

theorem test_exec_jumpOffset_v0 :
    stepsTo 0xB300 (regs [(0, 0x04)])
      (fun t => t.pc == 0x304#16) = true := by decide

theorem test_exec_jumpOffset_vx :
    stepsTo 0xB300 { regs [(3, 0x04)] with params := { Params.simulation with bnnnMode := .vx } }
      (fun t => t.pc == 0x304#16) = true := by decide

theorem test_exec_random_one_draw :
    stepsTo 0xC400 boot
      (fun t => t.draws == 1 && t.pc == 0x202#16) = true := by decide

theorem test_exec_draw_flips :
    stepsTo 0xD011 ((bytes [(0x300, 0x80)] (regs [(0, 0xC8), (1, 0x28)])).setIndex 0x300#16)
      (fun t => t.pixel 8 8 && !t.pixel 9 8 && t.dirty && t.reg vf == 0x00#8) = true := by decide

theorem test_exec_draw_fault_changes_nothing :
    stepsTo 0xD002 ((regs [(vf, 0x07)]).setIndex 0xFFF#16)
      (fun t => haltedBy (.memoryOverflow 0x1000) t && t.reg vf == 0x07#8 && !t.dirty) = true := by decide

theorem test_exec_skipKey_taken :
    stepsTo 0xE09E ((regs [(0, 0x07)]).setKeys (Vector.replicate 16 true))
      (fun t => t.pc == 0x204#16) = true := by decide

theorem test_exec_skipKey_index :
    stepsTo 0xE09E (regs [(0, 0x10)])
      (fun t => haltedBy (.keyIndexOutOfRange 0x10) t && t.pc == 0x200#16) = true := by decide

theorem test_exec_skipNotKey_taken :
    stepsTo 0xE0A1 (regs [(0, 0x07)])
      (fun t => t.pc == 0x204#16) = true := by decide

theorem test_exec_skipNotKey_not_taken :
    stepsTo 0xE0A1 ((regs [(0, 0x07)]).setKeys (Vector.replicate 16 true))
      (fun t => t.pc == 0x202#16) = true := by decide

theorem test_exec_getDelay_copies :
    stepsTo 0xF307 (boot.setDt 0x3C#8)
      (fun t => t.reg 3 == 0x3C#8 && t.dt == 0x3C#8) = true := by decide

theorem test_exec_getKey_waits :
    stepsTo 0xF30A boot
      (fun t => t.istate == .paused && t.pc == 0x200#16) = true := by decide

theorem test_exec_setDelay_copies :
    stepsTo 0xF215 (regs [(2, 0x03)])
      (fun t => t.dt == 0x03#8) = true := by decide

theorem test_exec_setSound_copies :
    stepsTo 0xF418 (regs [(4, 0x10)])
      (fun t => t.st == 0x10#8 && t.events == []) = true := by decide

theorem test_exec_setSound_zero_no_event :
    stepsTo 0xF018 (boot.setSt 0x05#8)
      (fun t => t.st == 0x00#8 && t.events == []) = true := by decide

theorem test_exec_addIndex_no_flag :
    stepsTo 0xF01E ((regs [(0, 0x01), (vf, 0x07)]).setIndex 0xFFE#16)
      (fun t => t.index == 0xFFF#16 && t.reg vf == 0x07#8) = true := by decide

theorem test_exec_addIndex_overflow :
    stepsTo 0xF01E ((regs [(0, 0x02)]).setIndex 0xFFE#16)
      (fun t => haltedBy (.indexRegisterOverflow 0x1000) t && t.index == 0xFFE#16) = true := by decide

theorem test_exec_font_multiplies :
    stepsTo 0xF129 (regs [(1, 0x33)])
      (fun t => t.index == 0xFF0#16) = true := by decide

theorem test_exec_font_overflow :
    stepsTo 0xF129 (regs [(1, 0x34)])
      (fun t => haltedBy (.indexRegisterOverflow 0x1040) t) = true := by decide

theorem test_exec_bcd_digits :
    stepsTo 0xF033 ((regs [(0, 0xFF)]).setIndex 0x300#16)
      (fun t => t.mem.read 0x300 == 0x02#8 && t.mem.read 0x301 == 0x05#8 && t.mem.read 0x302 == 0x05#8 && t.index == 0x300#16) = true := by decide

theorem test_exec_bcd_top :
    stepsTo 0xF033 ((regs [(0, 123)]).setIndex 0xFFE#16)
      (fun t => haltedBy (.memoryOverflow 0x1000) t && t.mem.read 0xFFE == 0x01#8 && t.mem.read 0xFFF == 0x02#8) = true := by decide

theorem test_exec_store_moves_index :
    stepsTo 0xF255 ((regs [(0, 0x01), (1, 0x02), (2, 0x03), (3, 0x04)]).setIndex 0x300#16)
      (fun t => t.mem.read 0x302 == 0x03#8 && t.mem.read 0x303 == 0x00#8 && t.index == 0x303#16) = true := by decide

theorem test_exec_store_top :
    stepsTo 0xF155 ((regs [(0, 0xAA)]).setIndex 0xFFF#16)
      (fun t => haltedBy (.memoryOverflow 0x1000) t && t.mem.read 0xFFF == 0xAA#8 && t.index == 0xFFF#16) = true := by decide

theorem test_exec_restore_top :
    stepsTo 0xF065 ((bytes [(0xFFE, 0x42)] boot).setIndex 0xFFE#16)
      (fun t => t.reg 0 == 0x42#8 && t.index == 0xFFF#16) = true := by decide

theorem test_exec_restore_loads :
    stepsTo 0xF165 ((bytes [(0x300, 0x01), (0x301, 0x02)] (regs [(2, 0x77)])).setIndex 0x300#16)
      (fun t => t.reg 0 == 0x01#8 && t.reg 1 == 0x02#8 && t.reg 2 == 0x77#8 && t.index == 0x302#16) = true := by decide

theorem test_exec_unknown_logs :
    stepsTo 0x5678 boot
      (fun t => t.events == [.unknownOpcode 0x5678#16] && t.pc == 0x202#16 && t.run == .running) = true := by decide

theorem test_exec_getKey_resumes :
    nextSat (exec (.getKey 0x3#4) (boot.setIstate (.released 7)))
      (fun t => t.reg 3 == 0x07#8 && t.istate == .idle && t.pc == 0x202#16) = true := by decide

/-- A parked machine with DT = 2 and an endless schedule. -/
def parkedTicking (o : Onward) : State := ((bytes [(0x200, 0x12)] boot).setDt 0x02#8).setOnward o

/-! ## Transactions (spec/95_test_vectors.md 2.6–2.8) -/

theorem test_tick_emits_soundZero :
    nextSat (transact .tick (boot.setSt 0x01#8)) (fun t => t.st == 0x00#8 && t.events == [.soundZero]) = true := by
  decide

theorem test_tick_no_event :
    nextSat (transact .tick ((boot.setSt 0x02#8).setDt 0x01#8))
      (fun t => t.st == 0x01#8 && t.dt == 0x00#8 && t.events == []) = true := by decide

theorem test_key_press_of_paused :
    nextSat (transact (.keyPress 3) (boot.setIstate .paused)) (fun t => t.istate == .pressed 3 && t.key 3) = true := by
  decide

theorem test_key_release_of_other_key :
    nextSat (transact (.keyRelease 4) (boot.setIstate (.pressed 3))) (fun t => t.istate == .pressed 3) = true := by decide

theorem test_key_release_of_pressed :
    nextSat (transact (.keyRelease 3) (boot.setIstate (.pressed 3))) (fun t => t.istate == .released 3) = true := by decide

theorem test_load_last_byte :
    nextSat (transact (.load 0xFFE [0x12#8, 0x34#8]) State.reset)
      (fun t => t.mem.read 0xFFE == 0x12#8 && t.mem.read 0xFFF == 0x34#8 && t.fontBase == some 0xFFE#12) = true := by
  decide

theorem test_load_past_end :
    nextSat (transact (.load 0xFFF [0x12#8, 0x34#8]) State.reset)
      (fun t => haltedBy (.memoryOverflow 0x1001) t && t.mem == []) = true := by decide

theorem test_load_address_past_end :
    nextSat (transact (.load 0x1000 []) State.reset) (haltedBy (.memoryOverflow 0x1000)) = true := by decide

theorem test_load_second_is_cartridge :
    nextSat (transact (.load 0x051 [0x33#8]) ((State.reset.setFontBase (some 0x050#12)).setMem [(0x050, 0x11#8), (0x051, 0x22#8)]))
      (fun t => t.mem == [(0x050, 0x11#8), (0x051, 0x33#8)] && t.cartBase == some 0x051#12 && t.pc == 0x051#16) = true := by
  decide

theorem test_fetch_past_end :
    nextSat (step (boot.setPc 0xFFF#16)) (fun t => haltedBy (.memoryOverflow 0x1000) t && t.pc == 0xFFF#16) = true := by
  decide

theorem test_step_before_loads_has_no_effect :
    nextSat (transact .step State.reset) (fun t => t == State.reset) = true := by decide

/-- The loop of R243, step, tick, step, tick and so on, is a run: its first transaction, and the tick after it, which
leaves the schedule as it was at the start. -/
theorem test_endless_step_tick :
    nextSat (step (parkedTicking (.repeating .step [.tick])))
        (fun t => t == parkedTicking (.repeating .tick [.step])) = true
      ∧ nextSat (step (parkedTicking (.repeating .tick [.step])))
        (fun t => t == (parkedTicking (.repeating .step [.tick])).setDt 0x01#8) = true := by decide

theorem test_memory_write_keeps_form :
    Memory.write [(5, 0x01#8)] 5 0x00#8 = [] ∧ Memory.write [(5, 0x01#8)] 3 0x02#8 = [(3, 0x02#8), (5, 0x01#8)]
      ∧ Memory.wf [(5, 0x01#8), (3, 0x02#8)] = false ∧ Memory.wf [(4096, 0x01#8)] = false ∧ Memory.wf [(5, 0x00#8)] = false := by
  decide

/-! ## States and operands that meet the hypotheses of the statements -/

/-- `boot` under AMBIGUOUS_POLICY = REFUSE. -/
def refuseBoot : State := { boot with params := { Params.simulation with policy := .refuse } }

/-- `boot` under a BNNN_MODE. -/
def modeBoot (m : BnnnMode) : State := { boot with params := { Params.simulation with bnnnMode := m } }

/-- `boot` under a finite STACK_DEPTH. -/
def depthBoot (d : Nat) : State := { boot with params := { Params.simulation with stackDepth := some d } }

/-- `boot` waiting for a key on `F00A` at `pc`. -/
def keyBoot (i : IState) : State := (bytes [(0x200, 0xF0), (0x201, 0x0A)] boot).setIstate i

/-- `boot` with a jump to itself at `pc`. -/
def parkedBoot : State := bytes [(0x200, 0x12)] boot


theorem test_wit_DecodeEncodeRoundTrip :
    wellFormed (.sys 0xFEF#12) = true ∧ wellFormed (.draw 0xF#4 0xF#4 0xF#4) = true
    ∧ wellFormed (.unknown 0xFFFF#16) = true ∧ wellFormed .clear = true := by decide

theorem test_wit_UnknownExactlyTheListedWords :
    decode 0x5001#16 = .unknown 0x5001#16 ∧ decode 0x8008#16 = .unknown 0x8008#16
    ∧ decode 0x800D#16 = .unknown 0x800D#16 ∧ decode 0x800F#16 = .unknown 0x800F#16
    ∧ decode 0x900F#16 = .unknown 0x900F#16 ∧ decode 0xE000#16 = .unknown 0xE000#16
    ∧ decode 0xF066#16 = .unknown 0xF066#16 := by decide

theorem test_wit_DecodePicksTableRow :
    rowMatches (rowOf (.sys 0x0E0#12)) 0x00E0#16 = true ∧ rowOf (.sys 0x0E0#12) ≠ rowOf (decode 0x00E0#16) := by decide

theorem test_wit_FirstDispatch :
    category 0x1000#16 = 0x1#4 ∧ category 0x2FFF#16 = 0x2#4 ∧ category 0x3000#16 = 0x3#4
    ∧ category 0x4FFF#16 = 0x4#4 ∧ category 0x6000#16 = 0x6#4 ∧ category 0x7FFF#16 = 0x7#4
    ∧ category 0xA000#16 = 0xA#4 ∧ category 0xBFFF#16 = 0xB#4 ∧ category 0xC000#16 = 0xC#4
    ∧ category 0xDFFF#16 = 0xD#4 := by decide

theorem test_wit_SecondDispatch :
    category 0x0FFF#16 = 0x0#4 ∧ category 0x5000#16 = 0x5#4 ∧ category 0x8FFF#16 = 0x8#4
    ∧ category 0x9000#16 = 0x9#4 ∧ category 0xEFFF#16 = 0xE#4 ∧ category 0xF000#16 = 0xF#4 := by decide

theorem test_wit_StepTakesNextTransaction :
    (boot.setScript [.tick, .step]).script = .tick :: [.step] ∧ boot.script = [] ∧ boot.onward = .repeating .step []
    ∧ State.reset.script = [] ∧ State.reset.onward = .free 0 := by decide

theorem test_wit_StepRunsDecodedInstruction_idle :
    nextTransaction boot = (.step, boot) ∧ InRunLoop boot ∧ boot.istate = .idle ∧ CanFetch boot
    ∧ decode (wordAt boot) = .sys 0x000#12 ∧ boot.params.policy = .decided := by decide

theorem test_wit_StepRunsDecodedInstruction_top :
    InRunLoop (boot.setPc 0xFFE#16) ∧ CanFetch (boot.setPc 0xFFE#16) := by decide

theorem test_wit_StepRunsDecodedInstruction_released :
    nextTransaction (keyBoot (.released 15)) = (.step, keyBoot (.released 15)) ∧ InRunLoop (keyBoot (.released 15)) ∧ CanFetch (keyBoot (.released 15))
    ∧ decode (wordAt (keyBoot (.released 15))) = .getKey 0x0#4 := by decide

theorem test_wit_StepRunsDecodedInstruction_refuse_policy :
    (bytes [(0x200, 0x60)] refuseBoot).params.policy = .refuse
    ∧ ambiguous (wordAt (bytes [(0x200, 0x60)] refuseBoot)) = false := by decide

theorem test_wit_StepChecksInOrder_address :
    InRunLoop (boot.setPc 0x1000#16) ∧ 4096 ≤ (boot.setPc 0x1000#16).pc.toNat ∧ (boot.setPc 0xFFF#16).pc.toNat < 4096
    ∧ 4096 ≤ (boot.setPc 0xFFF#16).pc.toNat + 1 := by decide

theorem test_wit_StepChecksInOrder_refused :
    InRunLoop refuseBoot ∧ refuseBoot.params.policy = .refuse ∧ ambiguous (wordAt refuseBoot) = true
    ∧ isRefused (transact .step refuseBoot) = true := by decide

theorem test_wit_StepChecksInOrder_released :
    InRunLoop (boot.setIstate (.released 3)) ∧ isGetKey (decode (wordAt (boot.setIstate (.released 3)))) = false
    ∧ nextSat (transact .step (boot.setIstate (.released 3))) (haltedBy (.inputStateInvariant 0x0000#16)) = true := by decide

theorem test_wit_KeyWaitGatesSteps :
    InRunLoop boot ∧ boot.istate = .idle ∧ InRunLoop (boot.setIstate .paused) ∧ InRunLoop (boot.setIstate (.pressed 15))
    ∧ InRunLoop (boot.setIstate (.released 0)) := by decide

theorem test_wit_LoadsOnlyBeforeRunLoop_before :
    State.reset.run = .running ∧ State.reset.booted = false := by decide

theorem test_wit_LoadsOnlyBeforeRunLoop_after :
    boot.run = .running ∧ boot.booted = true := by decide

theorem test_wit_HaltedAdmitsNothing :
    (boot.setRun (.halted .stackUnderflow)).run = .halted .stackUnderflow := by decide

theorem test_wit_QuitStopsTheMachine :
    boot.run = .running ∧ (boot.setRun .stopped).run = .stopped := by decide

theorem test_wit_InstructionRunsOnOrLatchesFault_runs :
    boot.run = .running ∧ exec (.jump 0xFFF#12) boot = .next (boot.setPc 0xFFF#16) := ⟨rfl, rfl⟩

theorem test_wit_InstructionRunsOnOrLatchesFault_faults :
    boot.run = .running ∧ exec .ret boot = .next (takeFault .stackUnderflow boot) := ⟨rfl, rfl⟩

theorem test_wit_FaultsRecordOutOfRangeValues :
    nextSat (step (boot.setPc 0xFFF#16)) (fun t => t.run == .halted (.memoryOverflow 4096)) = true := by decide

theorem test_wit_RegistersIndependentAndChecked :
    16 ≤ 16 ∧ (match readReg 16 boot with | .error (.fault f) _ => f == .registerIndexOverflow 16 | _ => false) = true := by decide

theorem test_wit_MemoryDeterminedByReads :
    Memory.wf [(0, 0x01#8), (4095, 0xFF#8)] = true ∧ Memory.wf [] = true := by decide

theorem test_wit_RegistersWrittenOnlyAsListed :
    mayWriteReg (.add 0x3#4 0x4#4) 0x4#4 = false ∧ mayWriteReg (.restore 0xE#4) vf = false
    ∧ mayWriteReg (.jump 0xFFF#12) 0x0#4 = false ∧ exec (.jump 0xFFF#12) boot = .next (boot.setPc 0xFFF#16) := ⟨rfl, rfl, rfl, rfl⟩

theorem test_wit_MemoryWrittenOnlyByBcdAndStore :
    Memory.wf (boot.setIndex 0x300#16).mem = true
    ∧ nextSat (exec (.bcd 0x0#4) (boot.setIndex 0x300#16)) (fun _ => true) = true ∧ 0x300 + 2 < 0x303
    ∧ nextSat (exec (.store 0x1#4) (boot.setIndex 0x300#16)) (fun _ => true) = true ∧ 0x300 + 1 < 0x302 ∧ 0x2FF < 0x300 := by decide

theorem test_wit_SpecialRegisterWriters :
    exec (.jump 0xFFF#12) boot = .next (boot.setPc 0xFFF#16) := rfl

theorem test_wit_DisplayWriters :
    exec (.jump 0xFFF#12) (boot.setDirty true) = .next ((boot.setDirty true).setPc 0xFFF#16) ∧ (boot.setDirty true).dirty = true := ⟨rfl, rfl⟩

theorem test_wit_HostStateUntouchedByInstructions :
    exec (.jump 0xFFF#12) boot = .next (boot.setPc 0xFFF#16) := rfl

theorem test_wit_RunsTo_completes_and_overflows :
    (boot.setPc 0xFFD#16).pc.toNat + 2 < 4096 ∧ 4096 ≤ (boot.setPc 0xFFE#16).pc.toNat + 2 := by decide

theorem test_wit_SkipsBy_completes_and_overflows :
    (boot.setPc 0xFFB#16).pc.toNat + 4 < 4096 ∧ 4096 ≤ (boot.setPc 0xFFC#16).pc.toNat + 4 := by decide

theorem test_wit_ReturnPopsStack :
    boot.stack = [] ∧ (boot.setStack [0xFFF#16]).stack = 0xFFF#16 :: [] ∧ (0xFFF#16).toNat < 4096
    ∧ (boot.setStack [0x1000#16]).stack = 0x1000#16 :: [] ∧ 4096 ≤ (0x1000#16).toNat := by decide

theorem test_wit_CallPushesReturnAddress :
    4096 ≤ (boot.setPc 0xFFE#16).pc.toNat + 2 ∧ (boot.setPc 0xFFD#16).pc.toNat + 2 < 4096
    ∧ (depthBoot 0).params.stackDepth = some (depthBoot 0).stack.length
    ∧ nextSat (exec (.call 0x300#12) (depthBoot 0)) (haltedBy .stackOverflow) = true
    ∧ nextSat (exec (.call 0x300#12) (depthBoot 1)) (fun t => t.stack == [0x202#16]) = true := by decide

theorem test_wit_CompareSkips :
    (regs [(2, 0x07)]).reg 2 = 0x07#8 ∧ (regs [(2, 0x07)]).reg 2 ≠ 0x08#8 ∧ boot.reg 6 = boot.reg 7 := by decide

theorem test_wit_JumpOffsetByMode_modes :
    (modeBoot .refuse).params.bnnnMode = .refuse ∧ (modeBoot .v0).params.bnnnMode = .v0 ∧ (modeBoot .vx).params.bnnnMode = .vx
    ∧ (0x300#12).extractLsb' 8 4 = 0x3#4 := by decide

theorem test_wit_JumpOffsetByMode_bounds :
    (0xF00#12).toNat + ((modeBoot .v0).setReg 0x0#4 0xFF#8 |>.reg 0x0#4).toNat < 4096
    ∧ 4096 ≤ (0xF01#12).toNat + ((modeBoot .v0).setReg 0x0#4 0xFF#8 |>.reg 0x0#4).toNat := by decide

theorem test_wit_KeySkips :
    ((regs [(0, 0x0F)]).reg 0).toNat = (15 : Fin 16).val ∧ 16 ≤ ((regs [(0, 0x10)]).reg 0).toNat := by decide

theorem test_wit_IndexSetAndAdd :
    ((regs [(0, 0xFF)]).setIndex 0xF00#16).index.toNat + ((regs [(0, 0xFF)]).reg 0).toNat < 4096
    ∧ 4096 ≤ ((regs [(0, 0xFF)]).setIndex 0xF01#16).index.toNat + ((regs [(0, 0xFF)]).reg 0).toNat := by decide

theorem test_wit_FontMultipliesBase :
    (boot.setFontBase (some 0x111#12)).fontBase = some 0x111#12 ∧ ((regs [(0, 0x0F)]).reg 0).toNat * (0x111#12).toNat < 4096
    ∧ 4096 ≤ ((regs [(0, 0x10)]).reg 0).toNat * (0x100#12).toNat := by decide

theorem test_wit_BcdStoresDigits :
    Memory.wf boot.mem = true ∧ (boot.setIndex 0xFFD#16).index.toNat + 2 < 4096 ∧ (boot.setIndex 0xFFE#16).index.toNat < 4096
    ∧ 4096 ≤ (boot.setIndex 0xFFE#16).index.toNat + 2 ∧ (boot.setIndex 0xFFF#16).index.toNat < 4096
    ∧ 4096 ≤ (boot.setIndex 0x1000#16).index.toNat := by decide

theorem test_wit_StoreWritesRegisters :
    Memory.wf boot.mem = true ∧ (boot.setIndex 0xFEF#16).index.toNat + (0xF#4).toNat + 1 < 4096
    ∧ (boot.setIndex 0xFF0#16).index.toNat + (0xF#4).toNat + 1 = 4096
    ∧ 4096 < (boot.setIndex 0xFF1#16).index.toNat + (0xF#4).toNat + 1 ∧ (boot.setIndex 0xFF1#16).index.toNat < 4096
    ∧ 4096 ≤ (boot.setIndex 0x1000#16).index.toNat := by decide

theorem test_wit_RestoreLoadsRegisters :
    (boot.setIndex 0xFFE#16).index.toNat + (0x0#4).toNat + 1 < 4096
    ∧ (boot.setIndex 0xFFF#16).index.toNat + (0x0#4).toNat + 1 = 4096
    ∧ 4096 < (boot.setIndex 0xFFF#16).index.toNat + (0x1#4).toNat + 1 ∧ (boot.setIndex 0xFFF#16).index.toNat < 4096
    ∧ 4096 ≤ (boot.setIndex 0x1000#16).index.toNat := by decide

theorem test_wit_RestoreUndoesStore :
    Memory.wf (boot.setIndex 0x300#16).mem = true ∧ (boot.setIndex 0x300#16).run = .running ∧ (0#4).toNat ≤ (0#4).toNat ∧ ∃ t u : State,
    exec (.store 0x0#4) (boot.setIndex 0x300#16) = .next t ∧ t.run = .running
      ∧ exec (.restore 0x0#4) (((t.setV boot.v).setIndex (boot.setIndex 0x300#16).index).setPc boot.pc) = .next u := ⟨by decide, rfl, by decide, _, _, rfl, rfl, rfl⟩

theorem test_wit_DrawFlipsSpritePixels :
    (boot.setIndex 0x1000#16).index.toNat = 4096 ∧ (0#4) = 0#4 ∧ (boot.setIndex 0xFF1#16).index.toNat + (0xF#4).toNat ≤ 4096
    ∧ spriteOn ((bytes [(0x300, 0x01)] boot).setIndex 0x300#16) 0#4 1#4 1#4 7 0 = true := by decide

theorem test_wit_DrawFaultChangesNothing :
    (0xF#4) ≠ 0#4 ∧ 4096 < (boot.setIndex 0xFF2#16).index.toNat + (0xF#4).toNat
    ∧ 4096 < (boot.setIndex 0x1000#16).index.toNat + (1#4).toNat := by decide

theorem test_wit_DrawTwiceRestoresDisplay :
    (0x0#4) ≠ vf ∧ (0x1#4) ≠ vf ∧ boot.run = .running ∧ ∃ t u : State,
    exec (.draw 0x0#4 0x1#4 0x0#4) boot = .next t ∧ t.run = .running
      ∧ exec (.draw 0x0#4 0x1#4 0x0#4) (t.setPc boot.pc) = .next u := ⟨by decide, by decide, rfl, _, _, rfl, rfl, rfl⟩

theorem test_wit_DrawTwiceRestoresDisplay_sets :
    spriteOn ((bytes [(0x300, 0x80)] boot).setIndex 0x300#16) 0#4 1#4 1#4 0 0 = true
    ∧ ((bytes [(0x300, 0x80)] boot).setIndex 0x300#16).pixel 0 0 = false := by decide

theorem test_wit_GetKeyWaitsAndResumes :
    boot.istate = .idle ∧ (boot.setIstate (.released 15)).istate = .released 15 := by decide

theorem test_wit_KeyEventsDriveInput :
    boot.run = .running ∧ (boot.setIstate (.pressed 15)).run = .running := by decide

theorem test_wit_TickCountsDown :
    (boot.setSt 0x01#8).run = .running ∧ (boot.setSt 0x01#8).st.toNat = 1 := by decide

theorem test_wit_RenderAckClearsDirty :
    (boot.setDirty true).run = .running ∧ (boot.setDirty true).dirty = true := by decide

theorem test_wit_LoaderBounds :
    State.reset.run = .running ∧ State.reset.booted = false ∧ Memory.wf State.reset.mem = true ∧ 4095 < 4096
    ∧ 4095 + [0xAB#8].length ≤ 4096 ∧ 4096 < 4095 + [0xAB#8, 0xCD#8].length ∧ 4096 ≤ 4096 ∧ State.reset.fontBase = none
    ∧ (State.reset.setFontBase (some 0x050#12)).booted = false ∧ (State.reset.setFontBase (some 0x050#12)).fontBase ≠ none := by decide

theorem test_wit_BootStartsRunLoop :
    (0xFFF#12).toNat + [0xAB#8].length ≤ 4096 ∧ (0x200#12).toNat + ([] : List Byte).length ≤ 4096 := by decide

theorem test_wit_ParkedStepReturnsSame :
    nextTransaction parkedBoot = (.step, parkedBoot) ∧ parkedBoot.booted = true ∧ condition parkedBoot = .parked := by decide

theorem test_wit_StepKeepsInvariant_idle :
    Inv boot ∧ nextSat (step boot) (fun t => t.pc == 0x202#16) = true := by decide

theorem test_wit_StepKeepsInvariant_released :
    Inv (keyBoot (.released 15)) ∧ nextSat (step (keyBoot (.released 15))) (fun t => t.reg 0 == 0x0F#8) = true := by decide

theorem test_wit_UnreachableFaultsAreNotTaken :
    Inv (boot.setStack [0xFFF#16]) ∧ boot.run = .running
    ∧ nextSat (exec .ret (boot.setStack [0xFFF#16])) (fun t => t.pc == 0xFFF#16) = true := by decide

end Sys2Proof.Tests
end

section
/-! PROOF. The statements of spec/10_state.md: the registers, the display writers, the values after construction, the
next transaction, and that every step keeps the invariants of R41. Each instruction is treated once, through its
`Effect` (Laws/Exec.lean). -/

namespace Sys2Proof.Machine

/-! ## What the end of an instruction leaves -/

section
variable {i : Instr} {s t u : State}

/-- After its effect an instruction writes `pc`, the run state and the event trace alone. -/
theorem Goes.frame (h : Goes u t) : ∃ p r l, t = ((u.setPc p).setRun r).setEvents l := by
  rcases h with rfl | ⟨p, -, rfl⟩ | ⟨f, -, rfl⟩
  · exact ⟨t.pc, t.run, t.events, rfl⟩
  · exact ⟨p, u.run, u.events, rfl⟩
  · exact ⟨u.pc, .halted f, .halted f :: u.events, rfl⟩

/-! ## What an effect can write -/

/-- The register file `v` holds what `s` does wherever the write column of the instruction names no register (R22,
R23). -/
def KeepsUnlisted (i : Instr) (s : State) (v : Vector Byte 16) : Prop :=
  ∀ y, mayWriteReg i y = false → (s.setV v).reg y = s.reg y

theorem KeepsUnlisted.refl : KeepsUnlisted i s s.v := fun _ _ => rfl

/-- The write of a listed register. -/
theorem KeepsUnlisted.setReg {x : Nibble} (b : Byte) (hx : ∀ y, mayWriteReg i y = false → (x == y) = false) :
    KeepsUnlisted i s (s.setReg x b).v := fun y hy => by
  have hy := beq_eq_false_iff_ne.mp (hx y hy)
  exact (State.reg_setReg s x y b).trans (if_neg hy)

/-- A result and its flag, where the destination and VF are listed. -/
theorem KeepsUnlisted.resultThenFlag {x : Nibble} (b f : Byte)
    (hx : ∀ y, mayWriteReg i y = false → (x == y || y == vf) = false) :
    KeepsUnlisted i s ((s.setReg x b).setReg vf f).v := fun y hy => by
  have hy := hx y hy
  simp only [Bool.or_eq_false_iff, beq_eq_false_iff_ne] at hy
  obtain ⟨hxy, hyf⟩ := hy
  have hf := (State.reg_setReg (s.setReg x b) vf y f).trans (if_neg hyf.symm)
  exact hf.trans ((State.reg_setReg s x y b).trans (if_neg hxy))

/-- What an effect writes, with the bounds that the written values meet. -/
inductive Writes (i : Instr) (s : State) : State → Prop
  /-- Registers, timers, the draw counter and the event trace. -/
  | data (v : Vector Byte 16) (d st : Byte) (n : Nat) (l : List Event) : KeepsUnlisted i s v →
    Writes i s (((((s.setV v).setDt d).setSt st).setDraws n).setEvents l)
  /-- 00E0 writes the display. -/
  | clear (d : Display) : i = .clear → Writes i s (s.setDisp d)
  /-- DXYN writes the display, VF and the dirty flag, and never clears that. -/
  | draw (x y n : Nibble) (d : Display) (b : Bool) (v : Vector Byte 16) : i = .draw x y n → KeepsUnlisted i s v →
    (s.dirty = true → b = true) → Writes i s (((s.setDisp d).setDirty b).setV v)
  /-- FX0A writes the input-block state and Vx. -/
  | wait (v : Vector Byte 16) (a : IState) : isGetKey i = true → KeepsUnlisted i s v →
    Writes i s ((s.setV v).setIstate a)
  /-- The instructions of `I` and of memory. -/
  | memory (m : Memory) (v : Vector Byte 16) (a : Word) : KeepsUnlisted i s v →
    (Memory.wf s.mem = true → Memory.wf m = true) → (s.index.toNat < 4096 → a.toNat < 4096) →
    Writes i s (((s.setMem m).setV v).setIndex a)
  /-- 00EE pops. -/
  | pop (p : Word) (rest : List Word) : s.stack = p :: rest → Writes i s (s.setStack rest)
  /-- 2NNN pushes an address, after the check of STACK_DEPTH. -/
  | push (p : Nat) : p < 4096 → s.params.stackDepth ≠ some s.stack.length →
    Writes i s (s.setStack (BitVec.ofNat 16 p :: s.stack))

/-- Nothing but the registers. -/
theorem Writes.registers {v : Vector Byte 16} (h : KeepsUnlisted i s v) : Writes i s (s.setV v) :=
  .data v s.dt s.st s.draws s.events h

theorem Writes.refl : Writes i s s := .registers .refl

/-- A value that passes the check of SetI, in `I` (R140). -/
theorem Writes.index {m : Memory} {v : Vector Byte 16} {a : Nat} (hv : KeepsUnlisted i s v)
    (hm : Memory.wf s.mem = true → Memory.wf m = true) (ha : a < 4096) :
    Writes i s (((s.setMem m).setV v).setIndex (BitVec.ofNat 16 a)) :=
  .memory m v _ hv hm fun _ => by rw [BitVec.toNat_ofNat]; omega

/-- The effects of `Effect`, sorted by the fields they write. -/
theorem Effect.writes (h : Effect i s u) : Writes i s u := by
  cases i with
  | clear =>
    obtain ⟨d, rfl⟩ := h
    exact .clear d rfl
  | ret =>
    obtain rfl | ⟨p, rest, hs, rfl⟩ := h
    · exact .refl
    · exact .pop p rest hs
  | call =>
    obtain rfl | ⟨hp, hn, rfl⟩ := h
    · exact .refl
    · exact .push _ hp hn
  | or | and | xor | add | sub | shr | subN | shl =>
    obtain ⟨b, f, rfl⟩ := h
    exact .registers (.resultThenFlag b f fun _ => id)
  | setImm | addImm | set | getDelay =>
    cases h
    exact .registers (.setReg _ fun _ => id)
  | random =>
    cases h
    exact .data _ s.dt s.st _ s.events (.setReg _ fun _ => id)
  | draw x y n =>
    obtain rfl | ⟨d, b, f, hb, rfl⟩ := h
    · exact .refl
    · exact .draw x y n d b _ rfl (.setReg f fun _ => BEq.comm.trans) hb
  | getKey =>
    obtain ⟨rfl, -⟩ | ⟨rfl, -⟩ | ⟨k, rfl⟩ := h
    · exact .wait s.v _ rfl .refl
    · exact .refl
    · exact .wait _ _ rfl (.setReg _ fun _ => id)
  | setIndex nnn =>
    cases h
    exact .index (m := s.mem) .refl id nnn.isLt
  | addIndex | font =>
    obtain rfl | ⟨a, ha, rfl⟩ := h
    · exact .refl
    · exact .index (m := s.mem) .refl id ha
  | bcd =>
    obtain ⟨m, hm, rfl⟩ := h
    exact .memory m s.v s.index .refl (fun hw => (hm hw).1) id
  | store =>
    obtain ⟨m, hm, rfl | ⟨a, ha, rfl⟩⟩ := h
    · exact .memory m s.v s.index .refl (fun hw => (hm hw).1) id
    · exact .index .refl (fun hw => (hm hw).1) ha
  | restore x =>
    obtain ⟨v, hv, hu⟩ := h
    have hv : KeepsUnlisted (.restore x) s v := fun y hy => hv y (Nat.not_le.mp (of_decide_eq_false hy))
    obtain rfl | ⟨a, ha, rfl⟩ := hu
    · exact .registers hv
    · exact .index (m := s.mem) hv id ha
  | setDelay x =>
    cases h
    exact .data s.v (s.reg x) s.st s.draws s.events .refl
  | setSound x =>
    cases h
    exact .data s.v s.dt (s.reg x) s.draws s.events .refl
  | unknown =>
    cases h
    exact .data s.v s.dt s.st s.draws _ .refl
  | sys | jump | skipEqImm | skipNeImm | skipEq | skipNe | jumpOffset | skipKey | skipNotKey =>
    cases h
    exact .refl

/-! ## Registers (R20–R23) -/

/-- Settles O20: what an effect can write leaves the register, and what ends an instruction writes no register. -/
theorem registersWrittenOnlyAsListed : Obligations.RegistersWrittenOnlyAsListed := by
  intro i s t y h hy
  obtain ⟨u, he, hg⟩ := exec_next h
  obtain ⟨p, r, l, rfl⟩ := hg.frame
  cases he.writes with
  | data v d st n l hv => exact hv y hy
  | draw x y' n d b v hi hv => exact hv y hy
  | wait v a hk hv => exact hv y hy
  | memory m v a hv => exact hv y hy
  | clear | pop | push => rfl

/-! ## The display (R29, R30) -/

/-- Settles O23: of what an effect can write, only Clear and Draw write the display and only Draw the dirty flag; what
ends an instruction writes neither. -/
theorem displayWriters : Obligations.DisplayWriters := by
  intro i s t h
  obtain ⟨u, he, hg⟩ := exec_next h
  obtain ⟨p, r, l, rfl⟩ := hg.frame
  cases he.writes with
  | clear d hi =>
    subst hi
    exact ⟨False.elim, fun _ => rfl, id⟩
  | draw x y n d b v hi hv hb =>
    subst hi
    exact ⟨False.elim, False.elim, hb⟩
  | data | wait | memory | pop | push => exact ⟨fun _ => rfl, fun _ => rfl, id⟩

/-! ## The invariants (R41)

`Inv` is split into the bounds on the data, which every instruction keeps through its effect, and the key wait, which
turns on the input-block state. -/

/-- The part of `Inv` that does not speak of a key wait. -/
def InBounds (s : State) : Prop :=
  Memory.wf s.mem = true ∧ s.pc.toNat < 4096 ∧ s.index.toNat < 4096 ∧ stackOk s = true ∧ depthOk s = true

theorem inv_iff : Inv s ↔ InBounds s ∧ waitOk s = true := by
  simp only [InBounds, and_assoc]

/-- What a key wait that goes on rests on: the run loop has started and the word at `pc` is a GetKey (R177). -/
abbrev AtGetKey (s : State) : Prop := s.booted = true ∧ CanFetch s ∧ isGetKey (decode (wordAt s)) = true

theorem waitOk_iff : waitOk s = true ↔ (s.istate ≠ .idle → AtGetKey s) := by
  unfold waitOk
  cases s.istate <;> simp [and_assoc]

theorem depthOk_iff : depthOk s = true ↔ ∀ n, s.params.stackDepth = some n → s.stack.length ≤ n := by
  unfold depthOk
  cases s.params.stackDepth <;> simp

/-- A pop keeps the bounds of the stack. -/
theorem InBounds.pop {p : Word} {rest : List Word} (h : InBounds s) (hs : s.stack = p :: rest) :
    InBounds (s.setStack rest) := by
  obtain ⟨hm, hp, hi, hk, hd⟩ := h
  refine ⟨hm, hp, hi, ?_, depthOk_iff.mpr fun n hn => ?_⟩
  · rw [stackOk, hs, List.all_cons, Bool.and_eq_true] at hk
    exact hk.2
  · have hle := depthOk_iff.mp hd n hn
    rw [hs, List.length_cons] at hle
    exact Nat.le_of_succ_le hle

/-- A push that passes the two checks of 2NNN keeps the bounds of the stack (R105, D24). -/
theorem InBounds.push {p : Nat} (h : InBounds s) (ha : p < 4096) (hf : s.params.stackDepth ≠ some s.stack.length) :
    InBounds (s.setStack (BitVec.ofNat 16 p :: s.stack)) := by
  obtain ⟨hm, hp, hi, hk, hd⟩ := h
  refine ⟨hm, hp, hi, ?_, depthOk_iff.mpr fun n hn => ?_⟩
  · rw [stackOk, State.setStack_stack, List.all_cons, Bool.and_eq_true, decide_eq_true_eq, BitVec.toNat_ofNat]
    exact ⟨by omega, hk⟩
  · have hle := depthOk_iff.mp hd n hn
    exact Nat.lt_of_le_of_ne hle fun e => hf (hn.trans (congrArg some e.symm))

/-- What an effect can write keeps the bounds. -/
theorem Writes.inBounds (h : Writes i s u) (hb : InBounds s) : InBounds u := by
  cases h with
  | data | clear | draw | wait => exact hb
  | pop p rest hs => exact hb.pop hs
  | push p hp hn => exact hb.push hp hn
  | memory m v a hv hm ha =>
    obtain ⟨hw, hp, hi, hrest⟩ := hb
    exact ⟨hm hw, hp, ha hi, hrest⟩

theorem Goes.inBounds (h : Goes u t) (hb : InBounds u) : InBounds t := by
  obtain rfl | ⟨p, hp, rfl⟩ | ⟨f, -, rfl⟩ := h
  · exact hb
  · obtain ⟨hm, -, hrest⟩ := hb
    exact ⟨hm, hp, hrest⟩
  · exact hb

theorem isGetKey_iff : isGetKey i = true ↔ ∃ x, i = .getKey x := by
  cases i <;> simp [isGetKey]

/-- Only GetKey writes the input-block state (R32). -/
theorem Writes.istate_eq (h : Writes i s u) (hi : isGetKey i = false) : u.istate = s.istate := by
  cases h with
  | wait v a hk =>
    rw [hi] at hk
    cases hk
  | data | clear | draw | memory | pop | push => rfl

/-- A GetKey begins the wait, leaves one that is not over, or ends it (R173). -/
theorem execGetKey_cases {x : Nibble} (h : execGetKey x s = .next t) :
    t = s.setIstate .paused ∨ t = s ∨ t.istate = .idle := by
  unfold execGetKey at h
  cases hi : s.istate with
  | idle =>
    rw [finish_ok (t := s.setIstate .paused) _ _ (by simp [hi])] at h
    cases h
    exact .inl rfl
  | paused | pressed =>
    rw [finish_ok (t := s) _ _ (by simp [hi])] at h
    cases h
    exact .inr (.inl rfl)
  | released k =>
    obtain ⟨p, r, l, rfl⟩ := (goes_advance (u := (s.setReg x (BitVec.ofNat 8 k.val)).setIstate .idle) (k := 2) h
      (by simp [hi])).frame
    exact .inr (.inr rfl)

/-- The instruction at `pc` keeps the invariants: a wait that it begins or leaves stays at its GetKey. -/
theorem exec_keeps_inv (hs : InBounds s) (hb : s.booted = true) (hc : CanFetch s)
    (hw : s.istate = .idle ∨ isGetKey (decode (wordAt s)) = true) (h : exec (decode (wordAt s)) s = .next t) : Inv t := by
  obtain ⟨u, he, hg⟩ := exec_next h
  refine inv_iff.mpr ⟨hg.inBounds (he.writes.inBounds hs), waitOk_iff.mpr fun ht => ?_⟩
  cases hk : isGetKey (decode (wordAt s)) with
  | false =>
    have hi : s.istate = .idle := hw.resolve_right (by simp [hk])
    obtain ⟨p, r, l, rfl⟩ := hg.frame
    exact absurd ((he.writes.istate_eq hk).trans hi) ht
  | true =>
    obtain ⟨x, hx⟩ := isGetKey_iff.mp hk
    rw [hx] at h
    obtain rfl | rfl | hi := execGetKey_cases h
    · exact ⟨hb, hc, hk⟩
    · exact ⟨hb, hc, hk⟩
    · exact absurd hi ht

/-- A latched fault keeps the invariants. -/
theorem takeFault_keeps_inv (f : Fault) (h : Inv s) : Inv (takeFault f s) := h

/-- Everything an engine step can do (R100): a fault is taken, or the instruction at `pc` runs, which in Released is the
GetKey that waits. -/
theorem engineStep_next (h : engineStep s = .next t) :
    (∃ f, t = takeFault f s) ∨
      (CanFetch s ∧ (s.istate.isReleased = true → isGetKey (decode (wordAt s)) = true) ∧
        exec (decode (wordAt s)) s = .next t) := by
  rw [engineStep, fetch_run] at h
  by_cases h0 : s.pc.toNat < 4096
  · by_cases h1 : s.pc.toNat + 1 < 4096
    · simp only [if_pos h0, if_pos h1, dispatchWord] at h
      split at h
      · cases h
      · split at h
        · cases h
          exact .inl ⟨_, rfl⟩
        · rename_i hr
          exact .inr ⟨h1, fun hi => eq_true_of_ne_false fun hk => hr ⟨hi, hk⟩, h⟩
    · simp only [if_pos h0, if_neg h1] at h
      cases h
      exact .inl ⟨_, rfl⟩
  · simp only [if_neg h0] at h
    cases h
    exact .inl ⟨_, rfl⟩

theorem engineStep_keeps_inv (hs : Inv s) (hb : s.booted = true) (ha : s.istate.stepAllowed = true)
    (h : engineStep s = .next t) : Inv t := by
  obtain ⟨f, rfl⟩ | ⟨hc, hr, h⟩ := engineStep_next h
  · exact takeFault_keeps_inv f hs
  · refine exec_keeps_inv (inv_iff.mp hs).1 hb hc ?_ h
    cases hi : s.istate with
    | idle => exact .inl rfl
    | released k => exact .inr (hr (by rw [hi]; rfl))
    | paused | pressed => rw [hi] at ha; cases ha

theorem load_run (addr : Nat) (bytes : List Byte) (s : State) : load addr bytes s =
    if 4096 ≤ addr then .error (.fault (.memoryOverflow addr)) s
    else if 4096 < addr + bytes.length then .error (.fault (.memoryOverflow (addr + bytes.length))) s
    else .ok () (recordBase addr (s.setMem (Memory.writeBytes s.mem addr bytes))) := rfl

/-- Everything a load can do (R59): it fails, or writes its bytes inside memory and records its base. -/
theorem load_next {addr : Nat} {bytes : List Byte} (h : finish (load addr bytes) s = .next t) :
    (∃ f, t = takeFault f s) ∨ (addr < 4096 ∧ addr + bytes.length ≤ 4096 ∧
      t = recordBase addr (s.setMem (Memory.writeBytes s.mem addr bytes))) := by
  have hr := load_run addr bytes s
  by_cases ha : 4096 ≤ addr
  · rw [if_pos ha] at hr
    rw [finish_fault _ _ _ hr] at h
    cases h
    exact .inl ⟨_, rfl⟩
  · rw [if_neg ha] at hr
    by_cases hl : 4096 < addr + bytes.length
    · rw [if_pos hl] at hr
      rw [finish_fault _ _ _ hr] at h
      cases h
      exact .inl ⟨_, rfl⟩
    · rw [if_neg hl] at hr
      rw [finish_ok _ _ _ hr] at h
      cases h
      exact .inr ⟨by omega, by omega, rfl⟩

theorem recordBase_inBounds {addr : Nat} (h : InBounds s) (ha : addr < 4096) : InBounds (recordBase addr s) := by
  unfold recordBase
  split
  · exact h
  · obtain ⟨hm, -, hrest⟩ := h
    exact ⟨hm, by rw [State.setPc_pc, BitVec.toNat_ofNat]; omega, hrest⟩

theorem recordBase_istate (addr : Nat) (s : State) : (recordBase addr s).istate = s.istate := by
  unfold recordBase
  split <;> rfl

/-- A load comes before the run loop, where no key wait is on. -/
theorem load_keeps_inv {addr : Nat} {bytes : List Byte} (hs : Inv s) (hb : s.booted = false)
    (h : finish (load addr bytes) s = .next t) : Inv t := by
  obtain ⟨f, rfl⟩ | ⟨ha, hl, rfl⟩ := load_next h
  · exact takeFault_keeps_inv f hs
  · obtain ⟨⟨hm, hrest⟩, hw⟩ := inv_iff.mp hs
    refine inv_iff.mpr ⟨recordBase_inBounds ⟨Memory.writeBytes_wf hm hl, hrest⟩ ha, waitOk_iff.mpr fun hi => ?_⟩
    rw [recordBase_istate, State.setMem_istate] at hi
    obtain ⟨hb', -⟩ := waitOk_iff.mp hw hi
    rw [hb] at hb'
    cases hb'

/-- No key event begins a wait (R174), and one that goes on stays at its GetKey. -/
theorem setIstate_keeps_inv {f : IState → IState} (hf : f .idle = .idle) (ks : Vector Bool 16) (hs : Inv s) :
    Inv ((s.setKeys ks).setIstate (f s.istate)) := by
  obtain ⟨hb, hw⟩ := inv_iff.mp hs
  refine inv_iff.mpr ⟨hb, waitOk_iff.mpr fun hi => ?_⟩
  exact waitOk_iff (s := s).mp hw fun e => hi (by rw [State.setIstate_istate, e, hf])

theorem tick_keeps_inv (hs : Inv s) : Inv (tick s) := by
  unfold tick
  split
  · exact hs
  · exact hs

theorem perform_keeps_inv {a : Transaction} (hs : Inv s) (he : enabled a s = true) (h : perform a s = .next t) :
    Inv t := by
  cases a with
  | load addr bytes => exact load_keeps_inv hs (by simpa [enabled] using he) h
  | step =>
    obtain ⟨hb, ha⟩ := Bool.and_eq_true _ _ ▸ he
    exact engineStep_keeps_inv hs hb ha h
  | keyPress k =>
    cases h
    exact setIstate_keeps_inv (f := istateAfterPress k) rfl _ hs
  | keyRelease k =>
    cases h
    exact setIstate_keeps_inv (f := istateAfterRelease k) rfl _ hs
  | tick =>
    cases h
    exact tick_keeps_inv hs
  | renderAck ok =>
    cases ok with
    | true =>
      cases h
      exact hs
    | false =>
      cases h
      exact takeFault_keeps_inv _ hs
  | quit =>
    cases h
    exact hs

/-- A transaction that answers a next state had no effect, or was enabled in a Running machine and had its effect
(R38, R201). -/
theorem transact_next {a : Transaction} (h : transact a s = .next t) :
    t = s ∨ (s.run = .running ∧ enabled a s = true ∧ perform a s = .next t) := by
  unfold transact at h
  split at h
  · cases h
  · cases h
    exact .inl rfl
  · split at h
    · exact .inr ⟨‹_›, ‹_›, h⟩
    · cases h
      exact .inl rfl

/-- Settles O59: taking a transaction off the schedule touches nothing that `Inv` reads, and every enabled transaction
keeps it. -/
theorem stepKeepsInvariant : Obligations.StepKeepsInvariant := by
  intro s t hs h
  obtain ⟨a, u, hn⟩ : ∃ a u, nextTransaction s = (a, u) := ⟨_, _, rfl⟩
  rw [step_of_nextTransaction hn] at h
  have hu : Inv u := by
    obtain ⟨l, rfl⟩ | ⟨o, rfl⟩ := nextTransaction_frame hn
    · exact hs
    · exact hs
  obtain rfl | ⟨-, he, hp⟩ := transact_next h
  · exact hu
  · exact perform_keeps_inv hu he hp

end

/-! ## The next transaction (R38, R243) -/

/-- Settles O9: what the schedule issues first, for a script, a repetition and a free schedule. -/
theorem stepTakesNextTransaction : Obligations.StepTakesNextTransaction := by
  refine fun s => ⟨fun t rest hs => step_of_nextTransaction (nextTransaction_script hs), fun t ts hs ho => ?_,
    fun n hs ho => ?_⟩
  · rw [step_of_nextTransaction (nextTransaction_onward hs), ho]
    cases ts <;> rfl
  · rw [step_of_nextTransaction (nextTransaction_onward hs), ho]
    rfl

/-! ## The register file (R20, R21) -/

/-- A read with an index of 16 or more raises (R21). -/
theorem readReg_overflow {i : Nat} (s : State) (h : 16 ≤ i) :
    readReg i s = .error (.fault (.registerIndexOverflow i)) s := by rw [readReg, dif_neg (Nat.not_lt.mpr h)]

/-- A write with an index of 16 or more raises (R21). -/
theorem writeReg_overflow {i : Nat} (s : State) (b : Byte) (h : 16 ≤ i) :
    writeReg i b s = .error (.fault (.registerIndexOverflow i)) s := by rw [writeReg, dif_neg (Nat.not_lt.mpr h)]

/-- Settles O18: read after write, and both sides of the index check. -/
theorem registersIndependentAndChecked : Obligations.RegistersIndependentAndChecked := by
  refine ⟨fun s x y b => ?_, fun s x b => ⟨readReg_run s x, writeReg_run s x b⟩,
    fun s i b h => ⟨readReg_overflow s h, writeReg_overflow s b h⟩⟩
  rw [State.reg_setReg]
  exact if_congr eq_comm rfl rfl

/-! ## Construction (R37) -/

/-- Settles O56: memory lists no byte, the registers, pixels and key flags are replicated, the rest are literals. -/
theorem resetValues : Obligations.ResetValues := by
  refine ⟨fun _ => rfl, fun x => ?_, rfl, rfl, rfl, rfl, fun c r => ?_, rfl, rfl, fun k => ?_, rfl, rfl, rfl, rfl⟩
  · exact Vector.getElem_replicate x.isLt
  · simp [State.pixel, State.reset]
  · exact Vector.getElem_replicate k.isLt

end Sys2Proof.Machine
end

section
/-! PROOF. The statements of spec/20_memory.md: the byte order of an instruction word, the instructions that write
memory, and the bounds of the loader. -/

namespace Sys2Proof

/-! ## Byte order (R54) -/

/-- The first byte by arithmetic on the word (R54). -/
theorem highByte_eq_ofNat (w : Word) : highByte w = BitVec.ofNat 8 (w.toNat / 256) :=
  BitVec.eq_of_toNat_eq (by simp [highByte, BitVec.extractLsb'_toNat, Nat.shiftRight_eq_div_pow])

/-- The second byte by arithmetic on the word (R54). -/
theorem lowByte_eq_ofNat (w : Word) : lowByte w = BitVec.ofNat 8 (w.toNat % 256) :=
  BitVec.eq_of_toNat_eq (by simp [lowByte, BitVec.extractLsb'_toNat])

/-- The decoder takes the two bytes of a word and leaves the rest (R70). -/
theorem decodeBytes_bytes (w : Word) (rest : List Byte) :
    decodeBytes (highByte w :: lowByte w :: rest) = .ok (decode w, rest) := by
  rw [decodeBytes, joinWord_bytes]

end Sys2Proof

namespace Sys2Proof.Machine

/-- Settles O8: both decoders take the high and the low byte of the word, which join to it. -/
theorem bytesDecodeBigEndian : Obligations.BytesDecodeBigEndian := by
  refine ⟨fun w rest => ?_, fun w => ?_⟩
  · rw [← highByte_eq_ofNat, ← lowByte_eq_ofNat, decodeBytes_bytes]
  · have hw : ¬ (16 = 0 ∨ 16 < 16 ∨ 2 ^ 16 ≤ w.toNat) := by omega
    rw [decodeTableWord, if_neg hw, BitVec.ofNat_toNat, BitVec.setWidth_eq, decodeBytes_bytes]

/-! ## The writers of memory (R50) -/

section
variable {i : Instr} {s t u : State}

/-- What ends an instruction writes no memory. -/
theorem Goes.mem_eq (h : Goes u t) : t.mem = u.mem := by
  obtain ⟨p, r, l, rfl⟩ := h.frame
  rfl

/-- The effect of every instruction but FX33 and FX55 leaves memory. -/
theorem Effect.mem_eq (h : Effect i s u) (hb : ∀ x, i ≠ .bcd x) (hs : ∀ x, i ≠ .store x) : u.mem = s.mem := by
  cases i with
  | bcd x => exact absurd rfl (hb x)
  | store x => exact absurd rfl (hs x)
  | clear =>
    obtain ⟨d, rfl⟩ := h
    rfl
  | ret =>
    obtain rfl | ⟨p, rest, -, rfl⟩ := h
    · rfl
    · rfl
  | call =>
    obtain rfl | ⟨-, -, rfl⟩ := h
    · rfl
    · rfl
  | or | and | xor | add | sub | shr | subN | shl =>
    obtain ⟨b, f, rfl⟩ := h
    rfl
  | draw =>
    obtain rfl | ⟨d, b, f, -, rfl⟩ := h
    · rfl
    · rfl
  | getKey =>
    obtain ⟨rfl, -⟩ | ⟨rfl, -⟩ | ⟨k, rfl⟩ := h
    · rfl
    · rfl
    · rfl
  | addIndex | font =>
    obtain rfl | ⟨a, -, rfl⟩ := h
    · rfl
    · rfl
  | restore =>
    obtain ⟨v, -, rfl | ⟨a, -, rfl⟩⟩ := h
    · rfl
    · rfl
  | _ =>
    cases h
    rfl

end

/-- Settles O21: FX33 and FX55 by the bytes that their effect leaves, every other instruction by leaving memory. -/
theorem memoryWrittenOnlyByBcdAndStore : Obligations.MemoryWrittenOnlyByBcdAndStore := by
  intro i s t a hw h ha
  obtain ⟨u, he, hg⟩ := exec_next h
  rw [hg.mem_eq]
  cases i with
  | bcd x =>
    obtain ⟨m, hm, rfl⟩ := he
    obtain ⟨-, hr⟩ := hm hw
    exact hr a ha
  | store x =>
    obtain ⟨m, hm, hu⟩ := he
    obtain ⟨-, hr⟩ := hm hw
    obtain rfl | ⟨v, -, rfl⟩ := hu
    · exact hr a ha
    · exact hr a ha
  | _ => rw [he.mem_eq nofun nofun]

/-! ## The loader (R59, R60) -/

section
variable {s : State} {addr : Nat} {bytes : List Byte}

/-- A load is enabled in a Running machine before the run loop (R38). -/
theorem transact_load (hr : s.run = .running) (hb : s.booted = false) :
    transact (.load addr bytes) s = finish (load addr bytes) s := by
  have he : enabled (.load addr bytes) s = true := by rw [enabled, hb, Bool.not_false]
  rw [transact, hr]
  exact if_pos he

theorem load_ok (ha : addr < 4096) (hl : addr + bytes.length ≤ 4096) :
    load addr bytes s = .ok () (recordBase addr (s.setMem (Memory.writeBytes s.mem addr bytes))) := by
  rw [load_run, if_neg (Nat.not_le.mpr ha), if_neg (Nat.not_lt.mpr hl)]

theorem load_fault_of_address (ha : 4096 ≤ addr) : load addr bytes s = .error (.fault (.memoryOverflow addr)) s := by
  rw [load_run, if_pos ha]

theorem load_fault_of_length (ha : addr < 4096) (hl : 4096 < addr + bytes.length) :
    load addr bytes s = .error (.fault (.memoryOverflow (addr + bytes.length))) s := by
  rw [load_run, if_neg (Nat.not_le.mpr ha), if_pos hl]

/-- The first load records FONT_BASE, the second CART_BASE and `pc` (R60, R241). -/
theorem recordBase_eq (addr : Nat) (s : State) : recordBase addr s =
    if s.fontBase = none then s.setFontBase (some (BitVec.ofNat 12 addr))
    else (s.setCartBase (some (BitVec.ofNat 12 addr))).setPc (BitVec.ofNat 16 addr) :=
  if_congr Option.isNone_iff_eq_none rfl rfl

end

/-- Settles O54: the three ranges of R59; what a load writes is `Memory.writeBytes`. -/
theorem loaderBounds : Obligations.LoaderBounds := by
  intro s addr bytes hr hb hw
  rw [transact_load hr hb]
  refine ⟨fun ha hl => ⟨Memory.writeBytes s.mem addr bytes, ?_, Memory.writeBytes_wf hw hl,
    Memory.read_writeBytes hw hl⟩, fun ha => ?_, fun ha hl => ?_⟩
  · rw [finish_ok _ _ _ (load_ok ha hl), recordBase_eq]
    rfl
  · exact finish_fault _ _ _ (load_fault_of_address ha)
  · exact finish_fault _ _ _ (load_fault_of_length ha hl)

end Sys2Proof.Machine
end

section
/-! PROOF. The statements of spec/30_encoding.md: the two dispatches, the words of Unknown, that decode and encode
agree, and the row of the opcode table that decode picks. The two dispatches say what `decode` gives by the fields of a
word; everything after goes through them. -/

namespace Sys2Proof

/-! ## The two dispatches (R73–R79) -/

/-- Settles O6: the category is matched first. -/
theorem firstDispatch : Obligations.FirstDispatch := by
  intro w
  refine ⟨?_, ?_, ?_, ?_, ?_, ?_, ?_, ?_, ?_, ?_⟩
  all_goals
    intro hc
    rw [decode, hc]
    rfl

/-- Settles O7: after the category, the match on the number of the bottom nibble or byte compares the field. -/
theorem secondDispatch : Obligations.SecondDispatch := by
  intro w
  have eq {n k : Nat} {a : BitVec n} (h : a.toNat = k) : a = BitVec.ofNat n k := (BitVec.toNat_eq_nat.mp h).right
  have ne {n : Nat} {a b : BitVec n} : a.toNat ≠ b.toNat → a ≠ b := BitVec.toNat_ne_iff_ne.mp
  refine ⟨fun hc => ?_, fun hc => ?_, fun hc => ?_, fun hc => ?_, fun hc => ?_, fun hc => ?_⟩
  all_goals rw [decode, hc]
  · change decodeCat0 w = _
    unfold decodeCat0
    split
    case h_3 h0 h1 => rw [if_neg (ne h0), if_neg (ne h1)]
    all_goals next h =>
      rw [eq h]
      rfl
  · change decodeCat5 w = _
    unfold decodeCat5
    split
    case h_2 h0 => rw [if_neg (ne h0)]
    all_goals next h =>
      rw [eq h]
      rfl
  · change decodeCat8 w = _
    unfold decodeCat8
    split
    case h_10 h0 h1 h2 h3 h4 h5 h6 h7 hE =>
      rw [if_neg (ne h0), if_neg (ne h1), if_neg (ne h2), if_neg (ne h3), if_neg (ne h4), if_neg (ne h5),
        if_neg (ne h6), if_neg (ne h7), if_neg (ne hE)]
    all_goals next h =>
      rw [eq h]
      rfl
  · change decodeCat9 w = _
    unfold decodeCat9
    split
    case h_2 h0 => rw [if_neg (ne h0)]
    all_goals next h =>
      rw [eq h]
      rfl
  · change decodeCatE w = _
    unfold decodeCatE
    split
    case h_3 h0 h1 => rw [if_neg (ne h0), if_neg (ne h1)]
    all_goals next h =>
      rw [eq h]
      rfl
  · change decodeCatF w = _
    unfold decodeCatF
    split
    case h_10 h07 h0A h15 h18 h1E h29 h33 h55 h65 =>
      rw [if_neg (ne h07), if_neg (ne h0A), if_neg (ne h15), if_neg (ne h18), if_neg (ne h1E), if_neg (ne h29),
        if_neg (ne h33), if_neg (ne h55), if_neg (ne h65)]
    all_goals next h =>
      rw [eq h]
      rfl

/-- Settles O5: each word is decoded by evaluation. -/
theorem writtenOutWordsDecode : Obligations.WrittenOutWordsDecode := by
  unfold Obligations.WrittenOutWordsDecode
  decide

/-! ## A word from its fields (R71) -/

section
variable {w : Word} {c n : Nibble} {nn : Byte}

theorem wordNNN_eq (hc : category w = c) : wordNNN c (fieldNNN w) = w := hc ▸ wordNNN_fields w

theorem wordXNN_eq (hc : category w = c) (hn : fieldNN w = nn) : wordXNN c (fieldX w) nn = w :=
  hc ▸ hn ▸ wordXNN_fields w

theorem wordXYN_eq (hc : category w = c) (hn : fieldN w = n) : wordXYN c (fieldX w) (fieldY w) n = w :=
  hc ▸ hn ▸ wordXYN_fields w

end

/-! ## The words of Unknown (R80) -/

theorem unusedAluNibble_iff (n : Nibble) :
    unusedAluNibble n = true ↔ (0x8 ≤ n.toNat ∧ n.toNat ≤ 0xD) ∨ n = 0xF#4 := by
  revert n
  decide

/-- The sub-operation nibbles that R76 does not name are the unused ones. -/
theorem unusedAluNibble_of_ne : ∀ n : Nibble, n ≠ 0x0#4 ∧ n ≠ 0x1#4 ∧ n ≠ 0x2#4 ∧ n ≠ 0x3#4 ∧ n ≠ 0x4#4 ∧ n ≠ 0x5#4 ∧
    n ≠ 0x6#4 ∧ n ≠ 0x7#4 ∧ n ≠ 0xE#4 → unusedAluNibble n = true := by
  decide

theorem namedFByte_eq_false_iff (nn : Byte) : namedFByte nn = false ↔
    ∀ b ∈ [0x07#8, 0x0A#8, 0x15#8, 0x18#8, 0x1E#8, 0x29#8, 0x33#8, 0x55#8, 0x65#8], nn ≠ b := by
  rw [namedFByte, ← Bool.not_eq_true, List.contains_iff_mem]
  exact ⟨fun h b hb hn => h (hn ▸ hb), fun h hn => h _ hn rfl⟩

/-- The check of R80 by the fields of the word. -/
theorem isUnknownWord_iff (w : Word) : isUnknownWord w = true ↔
    (category w = 0x5#4 ∧ fieldN w ≠ 0#4) ∨ (category w = 0x8#4 ∧ unusedAluNibble (fieldN w) = true)
      ∨ (category w = 0x9#4 ∧ fieldN w ≠ 0#4) ∨ (category w = 0xE#4 ∧ fieldNN w ≠ 0x9E#8 ∧ fieldNN w ≠ 0xA1#8)
      ∨ (category w = 0xF#4 ∧ namedFByte (fieldNN w) = false) := by
  simp [isUnknownWord, category, fieldN, fieldNN, or_assoc, and_assoc]

/-- The words that R80 lists decode to Unknown: each fails every comparison of its second dispatch. -/
theorem decode_of_isUnknownWord {w : Word} (h : isUnknownWord w = true) : decode w = .unknown w := by
  obtain ⟨-, h5, h8, h9, hE, hF⟩ := secondDispatch w
  obtain ⟨hc, hn⟩ | ⟨hc, hn⟩ | ⟨hc, hn⟩ | ⟨hc, hn, hn'⟩ | ⟨hc, hn⟩ := (isUnknownWord_iff w).mp h
  · rw [h5 hc, if_neg hn]
  · rw [h8 hc]
    simp only [unusedAluNibble, List.contains_iff_mem, List.mem_cons, List.not_mem_nil, or_false] at hn
    obtain hn | hn | hn | hn | hn | hn | hn := hn
    all_goals
      rw [hn]
      rfl
  · rw [h9 hc, if_neg hn]
  · rw [hE hc, if_neg hn, if_neg hn']
  · simp only [namedFByte_eq_false_iff, List.forall_mem_cons] at hn
    obtain ⟨h07, h0A, h15, h18, h1E, h29, h33, h55, h65, -⟩ := hn
    rw [hF hc, if_neg h07, if_neg h0A, if_neg h15, if_neg h18, if_neg h1E, if_neg h29, if_neg h33, if_neg h55,
      if_neg h65]

/-! ## What decode keeps of a word (R72–R80) -/

/-- An instruction as `decode` gives it of `w`: well formed with `w` its word, or Clear or Return, of which R74 leaves
`w[11:8]` open. -/
inductive DecodedFrom (w : Word) : Instr → Prop
  | word {i : Instr} (hi : wellFormed i = true) (he : encode i = w) : DecodedFrom w i
  | clear (hc : category w = 0x0#4) (hn : fieldNN w = 0xE0#8) : DecodedFrom w .clear
  | ret (hc : category w = 0x0#4) (hn : fieldNN w = 0xEE#8) : DecodedFrom w .ret

theorem sysAddressOk_fieldNNN {w : Word} (h0 : fieldNN w ≠ 0xE0#8) (hE : fieldNN w ≠ 0xEE#8) :
    sysAddressOk (fieldNNN w) = true := by
  have h : (fieldNNN w).extractLsb' 0 8 = fieldNN w := by
    rw [← fieldNN_wordNNN (category w), wordNNN_fields]
  simp [sysAddressOk, h, h0, hE]

theorem nibble_cases (c : Nibble) : c = 0x0#4 ∨ c = 0x1#4 ∨ c = 0x2#4 ∨ c = 0x3#4 ∨ c = 0x4#4 ∨ c = 0x5#4 ∨ c = 0x6#4 ∨
    c = 0x7#4 ∨ c = 0x8#4 ∨ c = 0x9#4 ∨ c = 0xA#4 ∨ c = 0xB#4 ∨ c = 0xC#4 ∨ c = 0xD#4 ∨ c = 0xE#4 ∨ c = 0xF#4 := by
  revert c
  decide

/-- The inversion of `decode`. -/
theorem decodedFrom_decode (w : Word) : DecodedFrom w (decode w) := by
  obtain ⟨h1, h2, h3, h4, h6, h7, hA, hB, hC, hD⟩ := firstDispatch w
  obtain ⟨h0, h5, h8, h9, hE, hF⟩ := secondDispatch w
  have hu := isUnknownWord_iff w
  obtain hc | hc | hc | hc | hc | hc | hc | hc | hc | hc | hc | hc | hc | hc | hc | hc := nibble_cases (category w)
  · rw [h0 hc]
    split_ifs with hn hn'
    · exact .clear hc hn
    · exact .ret hc hn'
    · exact .word (sysAddressOk_fieldNNN hn hn') (wordNNN_eq hc)
  · exact h1 hc ▸ .word rfl (wordNNN_eq hc)
  · exact h2 hc ▸ .word rfl (wordNNN_eq hc)
  · exact h3 hc ▸ .word rfl (wordXNN_eq hc rfl)
  · exact h4 hc ▸ .word rfl (wordXNN_eq hc rfl)
  · rw [h5 hc]
    split_ifs with hn
    · exact .word rfl (wordXYN_eq hc hn)
    · exact .word (hu.mpr (.inl ⟨hc, hn⟩)) rfl
  · exact h6 hc ▸ .word rfl (wordXNN_eq hc rfl)
  · exact h7 hc ▸ .word rfl (wordXNN_eq hc rfl)
  · rw [h8 hc]
    iterate 9 refine iteInduction (fun hn => .word rfl (wordXYN_eq hc hn)) fun _ => ?_
    rename_i n0 n1 n2 n3 n4 n5 n6 n7 nE
    have hn := unusedAluNibble_of_ne (fieldN w) ⟨n0, n1, n2, n3, n4, n5, n6, n7, nE⟩
    exact .word (hu.mpr (.inr (.inl ⟨hc, hn⟩))) rfl
  · rw [h9 hc]
    split_ifs with hn
    · exact .word rfl (wordXYN_eq hc hn)
    · exact .word (hu.mpr (.inr (.inr (.inl ⟨hc, hn⟩)))) rfl
  · exact hA hc ▸ .word rfl (wordNNN_eq hc)
  · exact hB hc ▸ .word rfl (wordNNN_eq hc)
  · exact hC hc ▸ .word rfl (wordXNN_eq hc rfl)
  · exact hD hc ▸ .word rfl (wordXYN_eq hc rfl)
  · rw [hE hc]
    split_ifs with hn hn'
    · exact .word rfl (wordXNN_eq hc hn)
    · exact .word rfl (wordXNN_eq hc hn')
    · exact .word (hu.mpr (.inr (.inr (.inr (.inl ⟨hc, hn, hn'⟩))))) rfl
  · rw [hF hc]
    iterate 9 refine iteInduction (fun hn => .word rfl (wordXNN_eq hc hn)) fun _ => ?_
    have hn : namedFByte (fieldNN w) = false := by simp [namedFByte, *]
    exact .word (hu.mpr (.inr (.inr (.inr (.inr ⟨hc, hn⟩))))) rfl

/-- Settles O2, by the inversion of `decode`. -/
theorem decodeGivesWellFormed : Obligations.DecodeGivesWellFormed := by
  intro w
  generalize decode w = i, decodedFrom_decode w = h
  cases h with
  | word hi he => exact ⟨hi, .inr (.inr he)⟩
  | clear => exact ⟨rfl, .inl rfl⟩
  | ret => exact ⟨rfl, .inr (.inl rfl)⟩

theorem decode_eq_unknown_iff (w : Word) : decode w = .unknown w ↔ isUnknownWord w = true := by
  refine ⟨fun h => ?_, decode_of_isUnknownWord⟩
  obtain ⟨hw, -⟩ := decodeGivesWellFormed w
  rwa [h] at hw

/-- Settles O3: the words of Unknown are those of the check of R80, which reads the listed fields. -/
theorem unknownExactlyTheListedWords : Obligations.UnknownExactlyTheListedWords := by
  intro w
  rw [decode_eq_unknown_iff, isUnknownWord_iff, unusedAluNibble_iff, namedFByte_eq_false_iff]

/-! ## Decode after encode (R71–R80) -/

/-- Settles O1: of an encoded word the category and the bottom field select the operation, and the fields are the
operands; a Sys is well formed when its bottom byte selects neither Clear nor Return, an Unknown when R80 lists it. -/
theorem decodeEncodeRoundTrip : Obligations.DecodeEncodeRoundTrip := by
  intro i hi
  obtain ⟨h1, h2, h3, h4, h6, h7, hA, hB, hC, hD⟩ := firstDispatch (encode i)
  obtain ⟨h0, h5, h8, h9, hE, hF⟩ := secondDispatch (encode i)
  cases i with
  | clear | ret => rfl
  | sys nnn =>
    simp only [wellFormed, sysAddressOk, Bool.and_eq_true, bne_iff_ne] at hi
    obtain ⟨hClear, hRet⟩ := hi
    rw [h0 (category_wordNNN ..), encode, fieldNN_wordNNN, fieldNNN_wordNNN, if_neg hClear, if_neg hRet]
  | jump => rw [h1 (category_wordNNN ..), encode, fieldNNN_wordNNN]
  | call => rw [h2 (category_wordNNN ..), encode, fieldNNN_wordNNN]
  | skipEqImm => rw [h3 (category_wordXNN ..), encode, fieldX_wordXNN, fieldNN_wordXNN]
  | skipNeImm => rw [h4 (category_wordXNN ..), encode, fieldX_wordXNN, fieldNN_wordXNN]
  | skipEq => rw [h5 (category_wordXYN ..), encode, fieldN_wordXYN, fieldX_wordXYN, fieldY_wordXYN, if_pos rfl]
  | setImm => rw [h6 (category_wordXNN ..), encode, fieldX_wordXNN, fieldNN_wordXNN]
  | addImm => rw [h7 (category_wordXNN ..), encode, fieldX_wordXNN, fieldNN_wordXNN]
  | set | or | and | xor | add | sub | shr | subN | shl =>
    rw [h8 (category_wordXYN ..), encode, fieldN_wordXYN, fieldX_wordXYN, fieldY_wordXYN]
    rfl
  | skipNe => rw [h9 (category_wordXYN ..), encode, fieldN_wordXYN, fieldX_wordXYN, fieldY_wordXYN, if_pos rfl]
  | setIndex => rw [hA (category_wordNNN ..), encode, fieldNNN_wordNNN]
  | jumpOffset => rw [hB (category_wordNNN ..), encode, fieldNNN_wordNNN]
  | random => rw [hC (category_wordXNN ..), encode, fieldX_wordXNN, fieldNN_wordXNN]
  | draw => rw [hD (category_wordXYN ..), encode, fieldX_wordXYN, fieldY_wordXYN, fieldN_wordXYN]
  | skipKey | skipNotKey =>
    rw [hE (category_wordXNN ..), encode, fieldNN_wordXNN, fieldX_wordXNN]
    rfl
  | getDelay | getKey | setDelay | setSound | addIndex | font | bcd | store | restore =>
    rw [hF (category_wordXNN ..), encode, fieldNN_wordXNN, fieldX_wordXNN]
    rfl
  | unknown w => exact decode_of_isUnknownWord hi

/-! ## The rows of the opcode table -/

section
variable {w p : Word}

/-- The mask F000 leaves the category. -/
theorem category_of_mask {c : Nibble} (h : w &&& 0xF000#16 = wordNNN c 0#12) : category w = c := by
  have hw := mask_wordNNN (category w) (fieldNNN w)
  rw [wordNNN_fields, h] at hw
  rw [← category_wordNNN (category w), ← hw, category_wordNNN]

/-- The mask F00F leaves the category and the bottom nibble. -/
theorem fields_of_nibbleMask (h : w &&& 0xF00F#16 = p) : category w = category p ∧ fieldN w = fieldN p := by
  have hw := mask_wordXYN_nibble (category w) (fieldX w) (fieldY w) (fieldN w)
  rw [wordXYN_fields, h] at hw
  rw [hw, category_wordXYN, fieldN_wordXYN]
  exact ⟨rfl, rfl⟩

/-- The mask F0FF leaves the category and the bottom byte. -/
theorem fields_of_byteMask (h : w &&& 0xF0FF#16 = p) : category w = category p ∧ fieldNN w = fieldNN p := by
  have hw := mask_wordXNN_byte (category w) (fieldX w) (fieldNN w)
  rw [wordXNN_fields, h] at hw
  rw [hw, category_wordXNN, fieldNN_wordXNN]
  exact ⟨rfl, rfl⟩

end

open Laws in
/-- The word of every instruction matches the instruction's own row. -/
theorem rowMatches_encode : ∀ i : Instr, rowMatches (rowOf i) (encode i) = true
  | .clear => RowMatch.clear
  | .ret => RowMatch.ret
  | .sys nnn => RowMatch.sys nnn
  | .jump nnn => RowMatch.jump nnn
  | .call nnn => RowMatch.call nnn
  | .skipEqImm x nn => RowMatch.skipEqImm x nn
  | .skipNeImm x nn => RowMatch.skipNeImm x nn
  | .skipEq x y => RowMatch.skipEq x y
  | .setImm x nn => RowMatch.setImm x nn
  | .addImm x nn => RowMatch.addImm x nn
  | .set x y => RowMatch.set x y
  | .or x y => RowMatch.or x y
  | .and x y => RowMatch.and x y
  | .xor x y => RowMatch.xor x y
  | .add x y => RowMatch.add x y
  | .sub x y => RowMatch.sub x y
  | .shr x y => RowMatch.shr x y
  | .subN x y => RowMatch.subN x y
  | .shl x y => RowMatch.shl x y
  | .skipNe x y => RowMatch.skipNe x y
  | .setIndex nnn => RowMatch.setIndex nnn
  | .jumpOffset nnn => RowMatch.jumpOffset nnn
  | .random x nn => RowMatch.random x nn
  | .draw x y n => RowMatch.draw x y n
  | .skipKey x => RowMatch.skipKey x
  | .skipNotKey x => RowMatch.skipNotKey x
  | .getDelay x => RowMatch.getDelay x
  | .getKey x => RowMatch.getKey x
  | .setDelay x => RowMatch.setDelay x
  | .setSound x => RowMatch.setSound x
  | .addIndex x => RowMatch.addIndex x
  | .font x => RowMatch.font x
  | .bcd x => RowMatch.bcd x
  | .store x => RowMatch.store x
  | .restore x => RowMatch.restore x
  | .unknown w => RowMatch.unknown w

/-- The row of the decoded instruction matches the word. -/
theorem rowMatches_rowOf_decode (w : Word) : rowMatches (rowOf (decode w)) w = true := by
  generalize decode w = i, decodedFrom_decode w = h
  cases h with
  | word hi he => exact he ▸ rowMatches_encode i
  | clear hc hn | ret hc hn =>
    rw [← wordXNN_eq hc hn, rowMatches, rowOf, mask_wordXNN_byte]
    rfl

/-- A row that matches, other than those of Sys and Unknown, is the row of the decoded instruction: the category and the
bottom field that it fixes select the instruction. -/
theorem rowOf_decode_eq {w : Word} {j : Instr} (hj : rowMatches (rowOf j) w = true) (hp : (rowOf j).priority = 1) :
    rowOf (decode w) = rowOf j := by
  obtain ⟨h1, h2, h3, h4, h6, h7, hA, hB, hC, hD⟩ := firstDispatch w
  obtain ⟨h0, h5, h8, h9, hE, hF⟩ := secondDispatch w
  have hm : w &&& (rowOf j).mask = (rowOf j).pattern := beq_iff_eq.mp hj
  cases j with
  | sys | unknown => cases hp
  | jump => exact h1 (category_of_mask hm) ▸ rfl
  | call => exact h2 (category_of_mask hm) ▸ rfl
  | skipEqImm => exact h3 (category_of_mask hm) ▸ rfl
  | skipNeImm => exact h4 (category_of_mask hm) ▸ rfl
  | setImm => exact h6 (category_of_mask hm) ▸ rfl
  | addImm => exact h7 (category_of_mask hm) ▸ rfl
  | setIndex => exact hA (category_of_mask hm) ▸ rfl
  | jumpOffset => exact hB (category_of_mask hm) ▸ rfl
  | random => exact hC (category_of_mask hm) ▸ rfl
  | draw => exact hD (category_of_mask hm) ▸ rfl
  | clear | ret =>
    dsimp only [rowOf] at hm
    obtain ⟨hc, hn⟩ := fields_of_byteMask hm
    rw [h0 hc, hn]
    rfl
  | skipEq =>
    dsimp only [rowOf] at hm
    obtain ⟨hc, hn⟩ := fields_of_nibbleMask hm
    rw [h5 hc, hn]
    rfl
  | set | or | and | xor | add | sub | shr | subN | shl =>
    dsimp only [rowOf] at hm
    obtain ⟨hc, hn⟩ := fields_of_nibbleMask hm
    rw [h8 hc, hn]
    rfl
  | skipNe =>
    dsimp only [rowOf] at hm
    obtain ⟨hc, hn⟩ := fields_of_nibbleMask hm
    rw [h9 hc, hn]
    rfl
  | skipKey | skipNotKey =>
    dsimp only [rowOf] at hm
    obtain ⟨hc, hn⟩ := fields_of_byteMask hm
    rw [hE hc, hn]
    rfl
  | getDelay | getKey | setDelay | setSound | addIndex | font | bcd | store | restore =>
    dsimp only [rowOf] at hm
    obtain ⟨hc, hn⟩ := fields_of_byteMask hm
    rw [hF hc, hn]
    rfl

/-- A word of Sys's row decodes to Sys, or to Clear or Return before it. -/
theorem priority_lt_of_rowMatches_sys {w : Word} {a : Addr} (hj : rowMatches (rowOf (.sys a)) w = true)
    (hne : rowOf (.sys a) ≠ rowOf (decode w)) : (rowOf (decode w)).priority < 2 := by
  obtain ⟨h0, -⟩ := secondDispatch w
  rw [h0 (category_of_mask (beq_iff_eq.mp hj))] at hne ⊢
  split_ifs at hne ⊢ with hClear hRet
  · decide
  · decide
  · exact absurd rfl hne

/-- Unknown's row comes after every other. -/
theorem priority_lt_of_ne_unknown {i : Instr} {v : Word} (hne : rowOf (.unknown v) ≠ rowOf i) :
    (rowOf i).priority < 3 := by
  cases i with
  | unknown => exact absurd rfl hne
  | sys => exact (by decide : 2 < 3)
  | _ => exact (by decide : 1 < 3)

/-- Settles O4: the rows of Sys and Unknown come after those that they overlap, and any other row that matches is the
decoded instruction's own. -/
theorem decodePicksTableRow : Obligations.DecodePicksTableRow := by
  refine fun w => ⟨rowMatches_rowOf_decode w, fun j hj hne => ?_⟩
  cases j with
  | sys => exact priority_lt_of_rowMatches_sys hj hne
  | unknown => exact priority_lt_of_ne_unknown hne
  | _ => exact absurd (rowOf_decode_eq hj rfl).symm hne

end Sys2Proof
end

section
/-! PROOF. The statements of spec/40_control_flow.md: the order of a step's checks, and every jump and skip. An
instruction is rewritten to the one operation it ends in (`JumpTo` or `Advance`, R101), and the two sides of that
operation's check are said once. -/

namespace Sys2Proof.Machine

/-! ## The end of an instruction (R101) -/

section
variable {i : Instr} {m n : Exec Unit} {s t : State} {k p : Nat}

/-- A transaction depends on what its statements answer alone. -/
theorem finish_congr (h : m s = n t) : finish m s = finish n t := by rw [finish, finish, h]

theorem finish_jumpTo_ok (h : p < 4096) : finish (jumpTo p) s = .next (s.setPc (BitVec.ofNat 16 p)) :=
  finish_ok _ _ _ (by rw [jumpTo_run, if_pos h])

theorem finish_jumpTo_fault (h : 4096 ≤ p) :
    finish (jumpTo p) s = .next (takeFault (.programCounterOverflow p) s) :=
  finish_fault _ _ _ (by rw [jumpTo_run, if_neg (Nat.not_lt.mpr h)])

theorem finish_advance_ok (h : s.pc.toNat + k < 4096) :
    finish (advance k) s = .next (s.setPc (s.pc + BitVec.ofNat 16 k)) :=
  finish_ok _ _ _ (by rw [advance_run, if_pos h])

theorem finish_advance_fault (h : 4096 ≤ s.pc.toNat + k) :
    finish (advance k) s = .next (takeFault (.programCounterOverflow (s.pc.toNat + k)) s) :=
  finish_jumpTo_fault h

/-- An instruction whose effect leaves `pc` and leads to `Advance(2)`. -/
theorem runsTo_of_advance (h : exec i s = finish (advance 2) t) (hpc : t.pc = s.pc) : RunsTo i s t := by
  rw [RunsTo, h, ← hpc]
  exact ⟨finish_advance_ok, finish_advance_fault⟩

theorem skipsBy_of_advance (h : exec i s = finish (advance k) s) : SkipsBy k i s := by
  rw [SkipsBy, h]
  exact ⟨finish_advance_ok, finish_advance_fault⟩

theorem skipIf_eq_advance (c : Bool) : skipIf c = advance (if c = true then 4 else 2) := by
  cases c
  · rfl
  · rfl

variable {c : Bool} {q : Prop} [Decidable q]

/-- A skip that is taken when `q` holds (R106, R108, R111). -/
theorem skipsBy_of_skipIf (h : exec i s = finish (skipIf c) s) (hc : c = true ↔ q) :
    SkipsBy (if q then 4 else 2) i s :=
  skipsBy_of_advance (by rw [h, skipIf_eq_advance, if_congr hc rfl rfl])

/-- A skip that is taken when `q` fails (R107, R109, R112). -/
theorem skipsBy_of_skipIf_not (h : exec i s = finish (skipIf c) s) (hc : c = true ↔ ¬ q) :
    SkipsBy (if q then 2 else 4) i s :=
  ite_not q 4 2 ▸ skipsBy_of_skipIf h hc

end

/-! ## Sys, Unknown and the jumps (R102–R105, R113) -/

/-- Settles O25: Sys is `Advance(2)`, Unknown is that after its event. -/
theorem sysAndUnknownOnlyAdvance : Obligations.SysAndUnknownOnlyAdvance :=
  ⟨fun _ _ => runsTo_of_advance rfl rfl, fun _ _ => runsTo_of_advance rfl rfl⟩

/-- A Return ends in a jump to the entry that it has popped. -/
theorem exec_ret_of_cons {s : State} {t : Word} {rest : List Word} (h : s.stack = t :: rest) :
    exec .ret s = finish (jumpTo t.toNat) (s.setStack rest) :=
  finish_congr (by rw [bind_run, popReturn_run, h])

/-- Settles O26: the stack is empty, or its top goes to `JumpTo`, which checks it. -/
theorem returnPopsStack : Obligations.ReturnPopsStack := by
  refine fun s => ⟨fun hs => finish_fault _ _ _ (by rw [bind_run, popReturn_run, hs]), fun t rest hs => ?_⟩
  rw [exec_ret_of_cons hs]
  refine ⟨fun ht => ?_, finish_jumpTo_fault⟩
  rw [finish_jumpTo_ok ht, BitVec.ofNat_toNat, BitVec.setWidth_eq]

/-- An address field passes the check of `JumpTo`. -/
theorem finish_jumpTo_addr (nnn : Addr) (s : State) :
    finish (jumpTo nnn.toNat) s = .next (s.setPc (nnn.setWidth 16)) := by
  rw [finish_jumpTo_ok nnn.isLt, BitVec.ofNat_toNat]

/-- Settles O27: Jump is `JumpTo` of an address field. -/
theorem jumpGoesToTarget : Obligations.JumpGoesToTarget := finish_jumpTo_addr

/-- The push of the return address, with its two checks, comes before the jump. -/
theorem exec_call (nnn : Addr) (s : State) :
    exec (.call nnn) s = finish (pushReturn (s.pc.toNat + 2) >>= fun _ => jumpTo nnn.toNat) s := rfl

/-- Settles O28: each check of the push ends the call, and after the push it jumps to an address field. -/
theorem callPushesReturnAddress : Obligations.CallPushesReturnAddress := by
  intro nnn s
  have hr := pushReturn_run s (s.pc.toNat + 2)
  rw [exec_call]
  split_ifs with hp hd
  · rw [if_neg (Nat.not_lt.mpr hp)] at hr
    exact finish_fault _ _ _ (by rw [bind_run, hr])
  · rw [if_pos (Nat.not_le.mp hp), if_pos hd] at hr
    exact finish_fault _ _ _ (by rw [bind_run, hr])
  · rw [if_pos (Nat.not_le.mp hp), if_neg hd, BitVec.ofNat_add, BitVec.ofNat_toNat, BitVec.setWidth_eq] at hr
    rw [← finish_jumpTo_addr]
    exact finish_congr (by rw [bind_run, hr])

/-! ## The skips (R106–R109, R111, R112) -/

/-- Settles O29: each skip reads its operands and tests them. -/
theorem compareSkips : Obligations.CompareSkips := by
  refine fun x y nn s => ⟨skipsBy_of_skipIf (c := s.reg x == nn) ?_ beq_iff_eq,
    skipsBy_of_skipIf_not (c := s.reg x != nn) ?_ bne_iff_ne, skipsBy_of_skipIf (c := s.reg x == s.reg y) ?_ beq_iff_eq,
    skipsBy_of_skipIf_not (c := s.reg x != s.reg y) ?_ bne_iff_ne⟩
  all_goals exact finish_congr (by simp only [bind_run, readVx_run])

section
variable {s : State} {x : Nibble}

theorem readKey_of_eq {k : Fin 16} (h : (s.reg x).toNat = k.val) : readKey x s = .ok (s.key k) s := by
  have hk : (s.reg x).toNat < 16 := h ▸ k.isLt
  rw [readKey_run, dif_pos hk, show (⟨(s.reg x).toNat, hk⟩ : Fin 16) = k from Fin.ext h]

/-- A value that names no key ends the instruction (D14). -/
theorem finish_readKey_fault (g : Bool → Exec Unit) (h : 16 ≤ (s.reg x).toNat) :
    finish (readKey x >>= g) s = .next (takeFault (.keyIndexOutOfRange (s.reg x).toNat) s) :=
  finish_fault _ _ _ (by rw [bind_run, readKey_run, dif_neg (Nat.not_lt.mpr h)])

end

/-- Settles O31: both skips read the flag of the key that Vx names, and that read checks the index. -/
theorem keySkips : Obligations.KeySkips := by
  refine fun x s => ⟨fun k hk => ⟨skipsBy_of_skipIf (c := s.key k) ?_ Iff.rfl,
    skipsBy_of_skipIf_not (c := !s.key k) ?_ (by rw [Bool.not_eq_true', Bool.not_eq_true])⟩,
    fun h => ⟨finish_readKey_fault _ h, finish_readKey_fault _ h⟩⟩
  all_goals exact finish_congr (by rw [bind_run, readKey_of_eq hk])

/-! ## JumpOffset (R110) -/

theorem exec_jumpOffset_of_some {nnn : Addr} {s : State} {x : Nibble}
    (h : jumpOffsetReg s.params.bnnnMode nnn = some x) :
    exec (.jumpOffset nnn) s = finish (jumpTo (nnn.toNat + (s.reg x).toNat)) s :=
  finish_congr (by simp only [bind_run, readState_run, h, readVx_run])

/-- Settles O30: the mode gives no register, or one whose value is added to NNN and goes to `JumpTo`. -/
theorem jumpOffsetByMode : Obligations.JumpOffsetByMode := by
  refine fun nnn s => ⟨fun hm => finish_refuse (t := s) _ _ ?_, fun x hm => ?_⟩
  · rw [bind_run, readState_run, hm]
    rfl
  · have hx : jumpOffsetReg s.params.bnnnMode nnn = some x := by
      obtain ⟨hm, rfl⟩ | ⟨hm, rfl⟩ := hm <;> rw [hm, jumpOffsetReg]
    rw [exec_jumpOffset_of_some hx]
    refine ⟨fun h => ?_, finish_jumpTo_fault⟩
    rw [finish_jumpTo_ok h, BitVec.ofNat_add, BitVec.ofNat_toNat, BitVec.ofNat_toNat]

/-! ## The step (R100, R203) -/

/-- The input-block states that let a step run (R176). -/
theorem stepAllowed_iff {a : IState} : a.stepAllowed = true ↔ a = .idle ∨ ∃ k, a = .released k := by
  cases a <;> simp [IState.stepAllowed]

/-- Of the input-block states that let a step run, only Idle resumes no GetKey. -/
theorem isReleased_iff {a : IState} (h : a.stepAllowed = true) : a.isReleased = true ↔ a ≠ .idle := by
  cases a with
  | idle => exact ⟨nofun, absurd rfl⟩
  | released k => exact ⟨fun _ => nofun, fun _ => rfl⟩
  | paused | pressed => cases h

/-- A step is enabled in the run loop when no key wait gates it (R38, R176, R241). -/
theorem transact_step {s : State} (hs : InRunLoop s) (ha : s.istate.stepAllowed = true) :
    transact .step s = engineStep s := by
  obtain ⟨hr, hb⟩ := hs
  have he : enabled .step s = true := by rw [enabled, hb, ha, Bool.and_self]
  rw [transact, hr]
  exact if_pos he

/-- The fetch of a step: a fault at either byte, or the word at `pc` (R54). -/
theorem engineStep_eq (s : State) : engineStep s =
    if 4096 ≤ s.pc.toNat then .next (takeFault (.memoryOverflow s.pc.toNat) s)
    else if 4096 ≤ s.pc.toNat + 1 then .next (takeFault (.memoryOverflow (s.pc.toNat + 1)) s)
    else dispatchWord (wordAt s) s := by
  rw [engineStep, fetch_run]
  simp only [← Nat.not_lt, ite_not]
  split_ifs
  · rfl
  · rfl
  · rfl

/-- Settles O11: the step is enabled, its fetch checks both bytes, and the dispatch of the word makes the other two
checks, where Released is what is left beside Idle. -/
theorem stepChecksInOrder : Obligations.StepChecksInOrder := by
  intro s hs ha
  have ha := stepAllowed_iff.mpr ha
  rw [transact_step hs ha, engineStep_eq, dispatchWord]
  simp only [isReleased_iff ha]

/-- A step that passes every check runs the word at `pc`. -/
theorem transact_step_eq_exec {s : State} (hs : InRunLoop s) (ha : s.istate = .idle ∨ ∃ k, s.istate = .released k)
    (hc : CanFetch s) (hp : s.params.policy = .decided ∨ ambiguous (wordAt s) = false)
    (hk : s.istate = .idle ∨ isGetKey (decode (wordAt s)) = true) :
    transact .step s = exec (decode (wordAt s)) s := by
  have hp : ¬ (s.params.policy = .refuse ∧ ambiguous (wordAt s) = true) := by
    obtain hp | hp := hp <;> simp [hp]
  have hk : ¬ (s.istate ≠ .idle ∧ isGetKey (decode (wordAt s)) = false) := fun ⟨hi, hg⟩ =>
    Bool.false_ne_true (hg.symm.trans (hk.resolve_left hi))
  rw [stepChecksInOrder s hs ha, if_neg (by omega), if_neg (Nat.not_le.mpr hc), if_neg hp, if_neg hk]

/-- Settles O10: taking the step off the schedule moves the schedule alone, which no check reads. -/
theorem stepRunsDecodedInstruction : Obligations.StepRunsDecodedInstruction := by
  rintro s u i hn hs ha hc rfl hp hk
  obtain ⟨hw, -⟩ := decodeGivesWellFormed (wordAt s)
  refine ⟨hw, (step_of_nextTransaction hn).trans ?_⟩
  obtain ⟨l, rfl⟩ | ⟨o, rfl⟩ := nextTransaction_frame hn
  · exact transact_step_eq_exec (s := s.setScript l) hs ha hc hp hk
  · exact transact_step_eq_exec (s := s.setOnward o) hs ha hc hp hk

end Sys2Proof.Machine
end

section
/-! PROOF. The statements of spec/41_alu.md: the ALU of R121 is said once on naturals, its flags by both columns of the
table, and the instruction that runs an operation of it (R120) is rewritten to its writes and the `Advance(2)` after
them. -/

namespace Sys2Proof.Machine

/-! ## Flags as the byte 1 or 0 -/

section
variable {p q : Prop} [Decidable p] [Decidable q]

theorem oneIf_congr (h : p ↔ q) : oneIf p = oneIf q := if_congr h rfl rfl

theorem flagByte_eq_oneIf {c : Bool} (h : c = true ↔ p) : flagByte c = oneIf p := if_congr h rfl rfl

end

section
variable (a b res : Byte)

theorem carryFlag_eq : carryFlag res a = oneIf (res.toNat < a.toNat) := flagByte_eq_oneIf decide_eq_true_iff

theorem noBorrowFlag_eq : noBorrowFlag res a = oneIf (¬ a.toNat < res.toNat) :=
  flagByte_eq_oneIf (by rw [← decide_not, decide_eq_true_iff])

/-- The mask of both shift flags keeps bit 0. -/
theorem and_one_eq_oneIf : b &&& 1#8 = oneIf (b.getLsbD 0 = true) := by
  rw [BitVec.and_one_eq_setWidth_ofBool_getLsbD]
  cases b.getLsbD 0
  · rfl
  · rfl

theorem lowBitFlag_eq : lowBitFlag b = oneIf (b.getLsbD 0 = true) := and_one_eq_oneIf b

theorem highBitFlag_eq : highBitFlag b = oneIf (b.getLsbD 7 = true) := by
  rw [highBitFlag, and_one_eq_oneIf, BitVec.getLsbD_ushiftRight]

theorem getLsbD_zero_iff : b.getLsbD 0 = true ↔ b.toNat % 2 = 1 := by
  rw [BitVec.getLsbD, Nat.testBit_zero, decide_eq_true_iff]

theorem getLsbD_seven_iff : b.getLsbD 7 = true ↔ 128 ≤ b.toNat := by
  rw [← BitVec.msb_eq_getLsbD_last, BitVec.msb_eq_decide, decide_eq_true_iff]

/-! ## The ALU on naturals (R121) -/

theorem toNat_aluResult_add : (aluResult .add a b).toNat = (a.toNat + b.toNat) % 256 := BitVec.toNat_add a b

theorem toNat_aluResult_sub : (aluResult .sub a b).toNat = (a.toNat + 256 - b.toNat) % 256 := by
  have hb := b.isLt
  rw [aluResult, BitVec.toNat_sub]
  omega

/-- SubN is Sub with its operands exchanged (D4). -/
theorem toNat_aluResult_subN : (aluResult .subN a b).toNat = (b.toNat + 256 - a.toNat) % 256 :=
  toNat_aluResult_sub b a

theorem toNat_aluResult_shr : (aluResult .shr a b).toNat = b.toNat / 2 := by
  rw [aluResult, BitVec.toNat_ushiftRight, Nat.shiftRight_one]

theorem toNat_aluResult_shl : (aluResult .shl a b).toNat = b.toNat * 2 % 256 := by
  rw [aluResult, BitVec.toNat_shiftLeft, Nat.shiftLeft_eq, pow_one]

theorem aluFlag_add : aluFlag .add a b = some (oneIf ((a.toNat + b.toNat) % 256 < a.toNat)) := by
  rw [← toNat_aluResult_add, ← carryFlag_eq]
  rfl

theorem aluFlag_sub : aluFlag .sub a b = some (oneIf (¬ a.toNat < (a.toNat + 256 - b.toNat) % 256)) := by
  rw [← toNat_aluResult_sub, ← noBorrowFlag_eq]
  rfl

theorem aluFlag_subN : aluFlag .subN a b = some (oneIf (¬ b.toNat < (b.toNat + 256 - a.toNat) % 256)) :=
  aluFlag_sub b a

theorem aluFlag_shr : aluFlag .shr a b = some (oneIf (b.getLsbD 0 = true)) := congrArg some (lowBitFlag_eq b)

theorem aluFlag_shl : aluFlag .shl a b = some (oneIf (b.getLsbD 7 = true)) := congrArg some (highBitFlag_eq b)

variable {a b}

/-- The wrapped sum falls below the first operand exactly on a carry out of bit 7. -/
theorem wrapped_sum_lt_iff : (a.toNat + b.toNat) % 256 < a.toNat ↔ 256 ≤ a.toNat + b.toNat := by
  have ha := a.isLt
  have hb := b.isLt
  omega

/-- The wrapped difference exceeds the minuend exactly on a borrow. -/
theorem wrapped_sub_not_gt_iff : ¬ a.toNat < (a.toNat + 256 - b.toNat) % 256 ↔ b.toNat ≤ a.toNat := by
  have ha := a.isLt
  have hb := b.isLt
  omega

end

/-- Settles O37: the flag column of each operation, where the three arithmetic ones compare the wrapped result. -/
theorem flagColumnsAgree : Obligations.FlagColumnsAgree := by
  refine fun a b => ⟨?_, ?_, ?_, aluFlag_shr a b, aluFlag_shl a b, rfl, rfl, rfl, rfl⟩
  · rw [aluFlag_add, oneIf_congr wrapped_sum_lt_iff]
  · rw [aluFlag_sub, oneIf_congr wrapped_sub_not_gt_iff]
  · rw [aluFlag_subN, oneIf_congr wrapped_sub_not_gt_iff]

/-! ## The register operations (R120) -/

section
variable {i : Instr} {op : AluOp} {x y : Nibble} {s : State} {f : Byte}

/-- An operation with a flag: the result goes to Vx, then the flag to VF, from the old operands (D2). -/
theorem runsTo_aluStep (h : exec i s = finish (aluStep op x y) s) (hf : aluFlag op (s.reg x) (s.reg y) = some f) :
    RunsTo i s ((s.setReg x (aluResult op (s.reg x) (s.reg y))).setReg vf f) :=
  runsTo_of_advance
    (h.trans (finish_congr (by simp only [aluStep, bind_run, readVx_run, writeVx_run, hf, writeFlag]))) rfl

/-- The same with the result given as a natural. -/
theorem runsTo_aluStep_ofNat {r : Nat} (h : exec i s = finish (aluStep op x y) s)
    (hr : (aluResult op (s.reg x) (s.reg y)).toNat = r) (hf : aluFlag op (s.reg x) (s.reg y) = some f) :
    RunsTo i s ((s.setReg x (BitVec.ofNat 8 r)).setReg vf f) := by
  rw [← hr, BitVec.ofNat_toNat, BitVec.setWidth_eq]
  exact runsTo_aluStep h hf

end

/-- Settles O32: each writes one register and no flag. -/
theorem movesAndImmediateAdd : Obligations.MovesAndImmediateAdd := by
  refine fun x y nn s => ⟨runsTo_of_advance (finish_congr ?_) rfl, runsTo_of_advance (finish_congr ?_) rfl,
    runsTo_of_advance (finish_congr ?_) rfl⟩
  · rw [bind_run, writeVx_run]
  · rw [← toNat_aluResult_add, BitVec.ofNat_toNat, BitVec.setWidth_eq]
    simp only [bind_run, readVx_run, writeVx_run, aluResult]
  · simp only [aluStep, bind_run, readVx_run, writeVx_run, aluResult, aluFlag, writeFlag, pure_run]

/-- Settles O33: three operations whose flag is 0. -/
theorem logicOpsClearFlag : Obligations.LogicOpsClearFlag := fun _ _ _ =>
  ⟨runsTo_aluStep (op := .or) rfl rfl, runsTo_aluStep (op := .and) rfl rfl, runsTo_aluStep (op := .xor) rfl rfl⟩

/-- Settles O34: result and flag of Add. -/
theorem addSetsCarry : Obligations.AddSetsCarry := fun _ _ _ =>
  runsTo_aluStep_ofNat rfl (toNat_aluResult_add _ _) (aluFlag_add _ _)

/-- Settles O35: result and flag of Sub and SubN. -/
theorem subtractionsSetNoBorrow : Obligations.SubtractionsSetNoBorrow := fun _ _ _ =>
  ⟨runsTo_aluStep_ofNat rfl (toNat_aluResult_sub _ _) (aluFlag_sub _ _),
    runsTo_aluStep_ofNat rfl (toNat_aluResult_subN _ _) (aluFlag_subN _ _)⟩

/-- Settles O36: result and flag of the shifts, where the bit shifted out is read off the old Vy. -/
theorem shiftsTakeVy : Obligations.ShiftsTakeVy := by
  refine fun x y s => ⟨runsTo_aluStep_ofNat rfl (toNat_aluResult_shr _ _) ?_,
    runsTo_aluStep_ofNat rfl (toNat_aluResult_shl _ _) ?_⟩
  · rw [aluFlag_shr, oneIf_congr (getLsbD_zero_iff _)]
  · rw [aluFlag_shl, oneIf_congr (getLsbD_seven_iff _)]

/-! ## Random (R133) -/

/-- Settles O38: the draw moves the counter, then its byte is masked and written. -/
theorem randomMasksOneDraw : Obligations.RandomMasksOneDraw := fun _ _ _ =>
  runsTo_of_advance (finish_congr (by simp only [bind_run, rand_run, writeVx_run])) rfl

end Sys2Proof.Machine
end

section
/-! PROOF. The statements of spec/42_index_memory.md: the instructions that write `I`, and those that move bytes between
memory and the registers. The two sides of the check of `SetI` (R140) are said once; FX55 and FX65 are one transfer with
two loops, and what the loops do stands in Laws/Loops.lean. -/

namespace Sys2Proof.Machine

/-! ## SetI (R140) -/

section
variable {i : Instr} {s t : State} {a : Nat}

/-- An instruction whose statements leave `pc` and lead to a `SetI` that passes, then `Advance(2)`. -/
theorem runsTo_of_setI (h : exec i s = finish (setI a >>= fun _ => advance 2) t) (hpc : t.pc = s.pc) (ha : a < 4096) :
    RunsTo i s (t.setIndex (BitVec.ofNat 16 a)) :=
  runsTo_of_advance (h.trans (finish_congr (by rw [bind_run, setI_run, if_pos ha]))) hpc

theorem finish_setI_fault (k : Unit → Exec Unit) (ha : 4096 ≤ a) :
    finish (setI a >>= k) t = .next (takeFault (.indexRegisterOverflow a) t) :=
  finish_fault _ _ _ (by rw [bind_run, setI_run, if_neg (Nat.not_lt.mpr ha)])

end

/-! ## ANNN, FX1E and FX29 (R141–R143) -/

theorem exec_addIndex (x : Nibble) (s : State) :
    exec (.addIndex x) s = finish (setI (s.index.toNat + (s.reg x).toNat) >>= fun _ => advance 2) s :=
  finish_congr (by simp only [bind_run, readVx_run, readIndex_run])

/-- Settles O39: both end in `SetI`, which an address field passes and a sum may not. -/
theorem indexSetAndAdd : Obligations.IndexSetAndAdd := by
  refine ⟨fun nnn s => ?_, fun x s => ⟨runsTo_of_setI (exec_addIndex x s) rfl, fun h => ?_⟩⟩
  · rw [← BitVec.ofNat_toNat]
    exact runsTo_of_setI rfl rfl nnn.isLt
  · exact (exec_addIndex x s).trans (finish_setI_fault _ h)

theorem exec_font {s : State} {base : Addr} (h : s.fontBase = some base) (x : Nibble) :
    exec (.font x) s = finish (setI ((s.reg x).toNat * base.toNat) >>= fun _ => advance 2) s :=
  finish_congr (by simp only [bind_run, readVx_run, readState_run, State.fontBaseValue, h, Option.getD_some])

/-- Settles O40: the product goes to `SetI`. -/
theorem fontMultipliesBase : Obligations.FontMultipliesBase := fun x _ _ hb =>
  ⟨runsTo_of_setI (exec_font hb x) rfl, fun h => (exec_font hb x).trans (finish_setI_fault _ h)⟩

/-! ## FX33 (R144) -/

/-- The first byte of a block, then the rest of the block. -/
theorem Memory.read_writeBytes_cons {m : Memory} (hw : Memory.wf m = true) {a : Nat} (b : Byte) {bs : List Byte}
    (ha : a + (b :: bs).length ≤ 4096) (c : Nat) :
    Memory.read (Memory.writeBytes m a (b :: bs)) c =
      if c = a then b else Memory.read (Memory.writeBytes m (a + 1) bs) c := by
  rw [List.length_cons] at ha
  rw [Memory.writeBytes, Memory.read_writeBytes (Memory.write_wf hw (by omega) b) (by omega),
    Memory.read_writeBytes hw (by omega), Memory.read_write hw]
  by_cases hc : c = a
  · rw [if_neg (by omega), if_pos hc.symm, if_pos hc]
  · rw [if_neg hc, if_neg (Ne.symm hc)]

section
variable {x : Nibble} {s : State}

/-- All three digits fit. -/
theorem exec_bcd_of_lt (h : s.index.toNat + 2 < 4096) :
    exec (.bcd x) s = finish (advance 2) (s.setMem (Memory.writeBytes s.mem s.index.toNat
      [hundreds (s.reg x), tens (s.reg x), ones (s.reg x)])) := by
  have h0 : s.index.toNat < 4096 := by omega
  have h1 : s.index.toNat + 1 < 4096 := by omega
  refine finish_congr ?_
  simp only [bind_run, readVx_run, readIndex_run, memWrite_run, if_pos h0, if_pos h1, if_pos h]
  rfl

/-- Two digits fit. -/
theorem exec_bcd_of_eq_4094 (h : s.index.toNat = 4094) :
    exec (.bcd x) s = .next (takeFault (.memoryOverflow 4096) (s.setMem (Memory.writeBytes s.mem s.index.toNat
      [hundreds (s.reg x), tens (s.reg x)]))) := by
  refine finish_fault _ _ _ ?_
  simp only [bind_run, readVx_run, readIndex_run, memWrite_run, h]
  rfl

/-- One digit fits. -/
theorem exec_bcd_of_eq_4095 (h : s.index.toNat = 4095) :
    exec (.bcd x) s = .next (takeFault (.memoryOverflow 4096) (s.setMem (Memory.writeBytes s.mem s.index.toNat
      [hundreds (s.reg x)]))) := by
  refine finish_fault _ _ _ ?_
  simp only [bind_run, readVx_run, readIndex_run, memWrite_run, h]
  rfl

theorem exec_bcd_of_ge (h : 4096 ≤ s.index.toNat) :
    exec (.bcd x) s = .next (takeFault (.memoryOverflow s.index.toNat) s) := by
  refine finish_fault _ _ _ ?_
  simp only [bind_run, readVx_run, readIndex_run, memWrite_run, if_neg (Nat.not_lt.mpr h)]

end

/-- Settles O41: the digits that fit are a block of bytes from `I` on. -/
theorem bcdStoresDigits : Obligations.BcdStoresDigits := by
  refine fun x s hw => ⟨fun h => ?_, fun h0 h2 => ?_, exec_bcd_of_ge⟩
  · refine ⟨_, runsTo_of_advance (exec_bcd_of_lt h) rfl, Memory.writeBytes_wf hw h, fun a => ?_⟩
    rw [Memory.read_writeBytes_cons hw _ h, Memory.read_writeBytes_cons hw _ h, Memory.read_writeBytes_cons hw _ h]
    rfl
  · obtain h | h : s.index.toNat = 4094 ∨ s.index.toNat = 4095 := by omega
    · have hl : s.index.toNat + 2 ≤ 4096 := by omega
      refine ⟨_, exec_bcd_of_eq_4094 h, Memory.writeBytes_wf hw hl, fun a => ?_⟩
      rw [Memory.read_writeBytes_cons hw _ hl, Memory.read_writeBytes_cons hw _ hl]
      exact if_congr Iff.rfl rfl (if_congr (by omega) rfl rfl)
    · have hl : s.index.toNat + 1 ≤ 4096 := by omega
      refine ⟨_, exec_bcd_of_eq_4095 h, Memory.writeBytes_wf hw hl, fun a => ?_⟩
      rw [Memory.read_writeBytes_cons hw _ hl]
      exact if_congr Iff.rfl rfl (if_neg (by omega)).symm

/-! ## FX55 and FX65 (R145, R146) -/

/-- What FX55 and FX65 have in common: a loop over the block from `I` on, then `I` moves past the block. -/
def transfer (loop : Nat → Exec Unit) (x : Nibble) : Exec Unit := do
  let a ← readIndex
  loop a
  setI (a + x.toNat + 1)
  advance 2

section
variable {loop : Nat → Exec Unit} {x : Nibble} {s t : State} {f : Fault}

theorem finish_transfer_of_ok (h : loop s.index.toNat s = .ok () t) :
    finish (transfer loop x) s = finish (setI (s.index.toNat + x.toNat + 1) >>= fun _ => advance 2) t :=
  finish_congr (by simp only [transfer, bind_run, readIndex_run, h])

theorem finish_transfer_of_fault (h : loop s.index.toNat s = .error (.fault f) t) :
    finish (transfer loop x) s = .next (takeFault f t) :=
  finish_fault _ _ _ (by simp only [transfer, bind_run, readIndex_run, h])

theorem exec_store (x : Nibble) (s : State) :
    exec (.store x) s = finish (transfer (fun a => storeRegs a (x.toNat + 1) 0) x) s := rfl

theorem exec_restore (x : Nibble) (s : State) :
    exec (.restore x) s = finish (transfer (fun a => restoreRegs a (x.toNat + 1) 0) x) s := rfl

/-- The whole block is inside memory: FX55 comes to its `SetI`. -/
theorem exec_store_of_le (hw : Memory.wf s.mem = true) (h : s.index.toNat + x.toNat + 1 ≤ 4096) :
    ∃ m, exec (.store x) s = finish (setI (s.index.toNat + x.toNat + 1) >>= fun _ => advance 2) (s.setMem m) ∧
      Memory.wf m = true ∧ ∀ a, Memory.read m a =
        if s.index.toNat ≤ a ∧ a ≤ s.index.toNat + x.toNat then s.reg (BitVec.ofNat 4 (a - s.index.toNat))
        else Memory.read s.mem a := by
  have hx : x.toNat < 16 := x.isLt
  obtain ⟨m, hm, hwm, hr⟩ := storeRegs_ok (base := s.index.toNat) (n := x.toNat + 1) (i := 0) hw (by omega) h
  exact ⟨m, finish_transfer_of_ok hm, hwm, fun a => (hr a).trans (if_congr (by omega) rfl rfl)⟩

/-- The whole block is inside memory: FX65 comes to its `SetI`. -/
theorem exec_restore_of_le (h : s.index.toNat + x.toNat + 1 ≤ 4096) :
    ∃ v, exec (.restore x) s = finish (setI (s.index.toNat + x.toNat + 1) >>= fun _ => advance 2) (s.setV v) ∧
      ∀ y, (s.setV v).reg y =
        if y.toNat ≤ x.toNat then Memory.read s.mem (s.index.toNat + y.toNat) else s.reg y := by
  have hx : x.toNat < 16 := x.isLt
  obtain ⟨v, hv, hr⟩ := restoreRegs_ok (s := s) (base := s.index.toNat) (n := x.toNat + 1) (i := 0) (by omega) h
  exact ⟨v, finish_transfer_of_ok hv, fun y => (hr y).trans (if_congr (by omega) rfl rfl)⟩

end

/-- Settles O42: the loop stops at the top of memory, or its block fits and `SetI` checks where it ends. -/
theorem storeWritesRegisters : Obligations.StoreWritesRegisters := by
  intro x s hw
  have hx : x.toNat < 16 := x.isLt
  refine ⟨fun h => ?_, fun h => ?_, fun h0 h => ?_, fun h => ?_⟩
  · obtain ⟨m, hm, hr⟩ := exec_store_of_le hw h.le
    exact ⟨m, runsTo_of_setI hm rfl h, hr⟩
  · obtain ⟨m, hm, hr⟩ := exec_store_of_le hw h.le
    rw [h] at hm
    exact ⟨m, hm.trans (finish_setI_fault _ le_rfl), hr⟩
  · obtain ⟨m, hm, hwm, hr⟩ :=
      storeRegs_fault (base := s.index.toNat) (n := x.toNat + 1) (i := 0) hw (by omega) h0.le h
    exact ⟨m, finish_transfer_of_fault hm, hwm, hr⟩
  · exact finish_transfer_of_fault ((storeRegs_succ s _ _ (by omega)).trans (if_neg (Nat.not_lt.mpr h)))

/-- Settles O43: the loop stops at the top of memory, or its block fits and `SetI` checks where it ends. -/
theorem restoreLoadsRegisters : Obligations.RestoreLoadsRegisters := by
  intro x s
  have hx : x.toNat < 16 := x.isLt
  refine ⟨fun h => ?_, fun h => ?_, fun h0 h => ?_, fun h => ?_⟩
  · obtain ⟨v, hv, hr⟩ := exec_restore_of_le h.le
    exact ⟨v, runsTo_of_setI hv rfl h, hr⟩
  · obtain ⟨v, hv, hr⟩ := exec_restore_of_le h.le
    rw [h] at hv
    exact ⟨v, hv.trans (finish_setI_fault _ le_rfl), hr⟩
  · obtain ⟨v, hv, hr⟩ :=
      restoreRegs_fault (s := s) (base := s.index.toNat) (n := x.toNat + 1) (i := 0) (by omega) h0.le h
    exact ⟨v, finish_transfer_of_fault hv, fun y => (hr y).trans (if_congr (by omega) rfl rfl)⟩
  · exact finish_transfer_of_fault ((restoreRegs_succ s _ _ (by omega)).trans (if_neg (Nat.not_lt.mpr h)))

/-! ## FX65 after FX55 -/

section
variable {i : Instr} {x : Nibble} {s t u : State} {f : Fault}

/-- An instruction that answered a running state has taken no fault. -/
theorem run_ne_running_of_takeFault (h : exec i s = .next (takeFault f u)) (ht : exec i s = .next t) :
    t.run ≠ .running := by
  rw [h] at ht
  cases ht
  exact nofun

/-- An instruction that answered a running state has moved `pc` (R101). -/
theorem RunsTo.eq_of_running (h : RunsTo i s u) (ht : exec i s = .next t) (hr : t.run = .running) :
    s.pc.toNat + 2 < 4096 ∧ t = u.setPc (s.pc + 2#16) := by
  obtain ⟨hok, hfault⟩ := h
  obtain hp | hp := Nat.lt_or_ge (s.pc.toNat + 2) 4096
  · rw [hok hp] at ht
    cases ht
    exact ⟨hp, rfl⟩
  · exact absurd hr (run_ne_running_of_takeFault (hfault hp) ht)

/-- FX55 runs to its end only where `I` can move past its block. -/
theorem store_fits_of_running (hw : Memory.wf s.mem = true) (ht : exec (.store x) s = .next t)
    (hr : t.run = .running) : s.index.toNat + x.toNat + 1 < 4096 := by
  obtain ⟨-, hend, htop, hout⟩ := storeWritesRegisters x s hw
  by_contra hfit
  obtain h | h | ⟨h0, h⟩ : 4096 ≤ s.index.toNat ∨ s.index.toNat + x.toNat + 1 = 4096
      ∨ s.index.toNat < 4096 ∧ 4096 < s.index.toNat + x.toNat + 1 := by omega
  · exact run_ne_running_of_takeFault (hout h) ht hr
  · obtain ⟨m, hm, -⟩ := hend h
    exact run_ne_running_of_takeFault hm ht hr
  · obtain ⟨m, hm, -⟩ := htop h0 h
    exact run_ne_running_of_takeFault hm ht hr

/-- What FX65 leaves when the block and the next instruction are inside memory. -/
theorem restore_next (hu : exec (.restore x) s = .next u) (hi : s.index.toNat + x.toNat + 1 < 4096)
    (hp : s.pc.toNat + 2 < 4096) :
    u.run = s.run ∧ u.index = BitVec.ofNat 16 (s.index.toNat + x.toNat + 1) ∧
      ∀ y : Nibble, y.toNat ≤ x.toNat → u.reg y = Memory.read s.mem (s.index.toNat + y.toNat) := by
  obtain ⟨hload, -⟩ := restoreLoadsRegisters x s
  obtain ⟨v, ⟨hok, -⟩, hreg⟩ := hload hi
  rw [hok hp] at hu
  cases hu
  exact ⟨rfl, rfl, fun y hy => (hreg y).trans (if_pos hy)⟩

end

/-- Settles O44: what fits for FX55 fits for FX65 from the same `I` and `pc`, which then reads the stored bytes. -/
theorem restoreUndoesStore : Obligations.RestoreUndoesStore := by
  intro x y s t u v hw hs ht htr hu hy
  have hfit := store_fits_of_running hw ht htr
  obtain ⟨hstore, -⟩ := storeWritesRegisters x s hw
  obtain ⟨m, hm, -, hread⟩ := hstore hfit
  obtain ⟨hpc, rfl⟩ := hm.eq_of_running ht htr
  obtain ⟨hrun, hindex, hreg⟩ := restore_next hu hfit hpc
  refine ⟨hrun.trans hs, ?_, hindex⟩
  calc u.reg y = Memory.read m (s.index.toNat + y.toNat) := hreg y hy
    _ = s.reg (BitVec.ofNat 4 (s.index.toNat + y.toNat - s.index.toNat)) :=
      (hread _).trans (if_pos ⟨Nat.le_add_right _ _, Nat.add_le_add_left hy _⟩)
    _ = s.reg y := by rw [Nat.add_sub_cancel_left, BitVec.ofNat_toNat, BitVec.setWidth_eq]

end Sys2Proof.Machine
end

section
/-! PROOF. The statements of spec/43_display.md: Clear, and the two ends of DXYN. Which pixels the drawing loops flip
stands in Laws/Draw.lean; here their bytes are those that `spriteOn` reads, and DXYN is rewritten to its loops and the
`Advance(2)` after them. -/

namespace Sys2Proof.Machine

/-! ## Clear (R161) -/

/-- Settles O45: Clear writes the display alone, with rows of unset pixels. -/
theorem clearUnsetsEveryPixel : Obligations.ClearUnsetsEveryPixel := by
  refine fun s => ⟨_, runsTo_of_advance rfl rfl, fun c r => ?_⟩
  simp only [State.pixel, State.setDisp, Vector.getElem_replicate]

/-! ## The sprite of DXYN (R160, R162) -/

/-- The bytes that DXYN reads: `n` of them, from `I` on. -/
def spriteBytes (s : State) (n : Nibble) : List Byte :=
  (List.range n.toNat).map fun k => Memory.read s.mem (s.index.toNat + k)

section
variable {s t : State} {x y n : Nibble}

theorem spriteBytes_length : (spriteBytes s n).length = n.toNat := by
  rw [spriteBytes, List.length_map, List.length_range]

theorem spriteBytes_getD {k : Nat} (h : k < n.toNat) :
    (spriteBytes s n).getD k 0 = Memory.read s.mem (s.index.toNat + k) := by
  rw [List.getD_eq_getElem _ _ (spriteBytes_length.symm ▸ h)]
  simp only [spriteBytes, List.getElem_map, List.getElem_range]

/-- With all eight columns to go, column offset `c - c0` shows bit `7 - (c - c0)` of the byte (D5). -/
theorem columnHit_eight (b : Byte) (c0 : Nat) (c : Fin 64) :
    columnHit b c0 8 c = (decide (c0 ≤ c.val ∧ c.val < c0 + 8) && b.getLsbD (7 - (c.val - c0))) := by
  by_cases h : c0 ≤ c.val ∧ c.val < c0 + 8
  · have hk : c0 ≤ c.val ∧ c.val ≤ c0 + 7 ∧ c0 + 7 - c.val < 8 := by omega
    rw [columnHit, decide_eq_true hk, decide_eq_true h, spriteBit, show c0 + 7 - c.val = 7 - (c.val - c0) by omega]
  · have hk : ¬ (c0 ≤ c.val ∧ c.val ≤ c0 + 7 ∧ c0 + 7 - c.val < 8) := by omega
    rw [columnHit, decide_eq_false hk, decide_eq_false h, Bool.false_and, Bool.false_and]

/-- The pixels that the drawing loops flip are those of `spriteOn`. -/
theorem spriteHit_spriteBytes : spriteHit (anchorColumn (s.reg x)) (anchorRow (s.reg y)) (spriteBytes s n) =
    spriteOn s x y n := by
  funext c r
  rw [spriteHit, columnHit_eight, spriteBytes_length, ← Bool.and_assoc, ← Bool.decide_and, spriteOn]
  by_cases h : (s.reg x).toNat % 64 ≤ c.val ∧ c.val < (s.reg x).toNat % 64 + 8
      ∧ (s.reg y).toNat % 32 ≤ r.val ∧ r.val < (s.reg y).toNat % 32 + n.toNat
  · obtain ⟨hc, hc', hr, hr'⟩ := h
    rw [spriteBytes_getD (by rw [anchorRow]; omega)]
    simp only [anchorRow, anchorColumn, hc, hc', hr, hr', and_self]
  · rw [decide_eq_false h, decide_eq_false (by rw [anchorRow, anchorColumn]; omega), Bool.false_and, Bool.false_and]

/-- The bytes are inside memory: DXYN clears VF and comes to its drawing loops. -/
theorem exec_draw_of_le (h : n = 0#4 ∨ s.index.toNat + n.toNat ≤ 4096) :
    exec (.draw x y n) s = finish (advance 2)
      (drawRows (anchorColumn (s.reg x)) (anchorRow (s.reg y)) (spriteBytes s n) (s.setReg vf 0#8)) := by
  have hn : n.toNat = 0 ∨ s.index.toNat + n.toNat ≤ 4096 := h.imp_left (congrArg BitVec.toNat)
  refine finish_congr ?_
  simp only [bind_run, readVx_run, readIndex_run, readSprite_ok hn, writeVx_run, modifyState_run, spriteBytes]

/-- A drawing that begins with VF at 0 writes the display, the dirty flag and VF, and VF ends as the collision. -/
theorem Drawn.of_cleared {hit : Fin 64 → Fin 32 → Bool} (h : Drawn hit (s.setReg vf 0#8) t) :
    ∃ d b f, t = ((s.setDisp d).setDirty b).setReg vf f
      ∧ (∀ c r, (s.setDisp d).pixel c r = (s.pixel c r ^^ hit c r))
      ∧ (b = true ↔ s.dirty = true ∨ ∃ c r, hit c r = true)
      ∧ ((∃ c r, hit c r = true ∧ s.pixel c r = true) → f = 1#8)
      ∧ ((¬ ∃ c r, hit c r = true ∧ s.pixel c r = true) → f = 0#8) := by
  obtain ⟨⟨d, b, f, rfl⟩, hpixel, hdirty, hflag⟩ := h
  simp only [State.reg_setReg, if_true] at hflag
  exact ⟨d, b, f, State.setReg_setReg ((s.setDisp d).setDirty b) vf 0#8 f, hpixel, hdirty,
    fun hc => hflag.trans (if_pos hc), fun hc => hflag.trans (if_neg hc)⟩

end

/-- Settles O46: the drawing loops flip the pixels of `spriteOn`, from a VF of 0. -/
theorem drawFlipsSpritePixels : Obligations.DrawFlipsSpritePixels := by
  intro x y n s h
  have hd := drawRows_drawn (anchorColumn (s.reg x)) (anchorRow (s.reg y)) (spriteBytes s n) (s.setReg vf 0#8)
  rw [spriteHit_spriteBytes] at hd
  obtain ⟨d, b, f, ht, hdrawn⟩ := hd.of_cleared
  exact ⟨d, b, f, runsTo_of_advance ((exec_draw_of_le h).trans (by rw [ht])) rfl, hdrawn⟩

/-- Settles O47: all bytes are read before the first write (D6), and the reads stop at the first bad address. -/
theorem drawFaultChangesNothing : Obligations.DrawFaultChangesNothing := by
  intro x y n s h0 h
  have hn : 0 < n.toNat := Nat.pos_of_ne_zero fun h => h0 (BitVec.eq_of_toNat_eq h)
  have hmax : (if s.index.toNat < 4096 then 4096 else s.index.toNat) = max s.index.toNat 4096 := by
    split_ifs with hi
    · exact (Nat.max_eq_right hi.le).symm
    · exact (Nat.max_eq_left (Nat.not_lt.mp hi)).symm
  rw [hmax]
  refine finish_fault _ _ _ ?_
  simp only [bind_run, readVx_run, readIndex_run, readSprite_fault hn h]

end Sys2Proof.Machine
end

section
/-! PROOF. The statements of spec/44_timers_input.md: the timer copies, GetKey, the key events, and the key wait as the
gate of the engine step. Whether a transaction is enabled (R38) is read off `enabled` once, in both directions. -/

namespace Sys2Proof.Machine

/-! ## The timers (R170–R172) -/

/-- Settles O49: each reads its source, writes its target and advances. -/
theorem timerInstructionsCopy : Obligations.TimerInstructionsCopy := by
  refine fun x s => ⟨runsTo_of_advance (finish_congr ?_) rfl, runsTo_of_advance (finish_congr ?_) rfl,
    runsTo_of_advance (finish_congr ?_) rfl⟩
  · simp only [bind_run, readState_run, writeVx_run]
  · simp only [bind_run, readVx_run, modifyState_run]
  · simp only [bind_run, readVx_run, modifyState_run]

/-! ## GetKey (R173) -/

section
variable {s : State} {x : Nibble}

/-- In Idle the wait begins, and `pc` stays at the GetKey. -/
theorem exec_getKey_of_idle (h : s.istate = .idle) : exec (.getKey x) s = .next (s.setIstate .paused) :=
  finish_ok _ _ _ (by simp only [bind_run, readState_run, h, modifyState_run])

/-- In Released the wait ends: the key number goes to Vx, and the instruction comes to its `Advance(2)`. -/
theorem exec_getKey_of_released {k : Fin 16} (h : s.istate = .released k) :
    exec (.getKey x) s = finish (advance 2) ((s.setReg x (BitVec.ofNat 8 k.val)).setIstate .idle) :=
  finish_congr (by simp only [bind_run, readState_run, h, writeVx_run, modifyState_run])

end

/-- Settles O50: GetKey begins its wait in Idle and ends it in Released. -/
theorem getKeyWaitsAndResumes : Obligations.GetKeyWaitsAndResumes := fun _ _ =>
  ⟨exec_getKey_of_idle, fun _ hk => runsTo_of_advance (exec_getKey_of_released hk) rfl⟩

/-! ## Enabled transactions (R38) -/

section
variable {s : State} {a : Transaction}

/-- A Running machine gives an enabled transaction its effect. -/
theorem transact_of_enabled (hr : s.run = .running) (he : enabled a s = true) : transact a s = perform a s := by
  rw [transact, hr]
  exact if_pos he

/-- In a Running machine a transaction that is not enabled has no effect (D27). -/
theorem transact_of_not_enabled (hr : s.run = .running) (he : enabled a s = false) : transact a s = .next s := by
  rw [transact, hr]
  exact if_neg (Bool.eq_false_iff.mp he)

end

/-! ## Key events (R174, R175) -/

/-- Key flags are independent (R31). -/
theorem State.key_setKeys_set (s : State) (k j : Fin 16) (b : Bool) :
    (s.setKeys (s.keys.set k.val b)).key j = if j = k then b else s.key j := by
  rw [State.key, State.setKeys_keys, Vector.getElem_set]
  exact if_congr (Fin.val_inj.trans eq_comm) rfl rfl

section
variable {s : State} {k : Fin 16}

/-- A press is enabled in every input-block state. -/
theorem transact_keyPress (hr : s.run = .running) : transact (.keyPress k) s = .next (keyPress k s) :=
  transact_of_enabled hr rfl

/-- A release is enabled in every input-block state. -/
theorem transact_keyRelease (hr : s.run = .running) : transact (.keyRelease k) s = .next (keyRelease k s) :=
  transact_of_enabled hr rfl

end

/-- Settles O51: an event writes its own flag, and the table of R174 is split by the input-block state. -/
theorem keyEventsDriveInput : Obligations.KeyEventsDriveInput := by
  refine fun k s hr => ⟨⟨_, _, transact_keyPress hr, fun j => State.key_setKeys_set s k j true, ?_⟩,
    ⟨_, _, transact_keyRelease hr, fun j => State.key_setKeys_set s k j false, ?_⟩⟩
  · cases s.istate with
    | idle | paused | pressed | released => rfl
  · cases s.istate with
    | idle | paused | pressed | released => rfl

/-! ## The gate of the engine step (R176) -/

/-- While a key wait waits for its press or its release, no step is enabled (R176). -/
theorem not_enabled_step_of_waiting {s : State} (h : s.istate = .paused ∨ ∃ k, s.istate = .pressed k) :
    enabled .step s = false := by
  obtain h | ⟨k, h⟩ := h
  all_goals rw [enabled, h, IState.stepAllowed, Bool.and_false]

/-- Settles O12: of the transactions named, only whether a step is enabled turns on the input-block state. -/
theorem keyWaitGatesSteps : Obligations.KeyWaitGatesSteps := fun _ hr =>
  ⟨fun hb ha => transact_step ⟨hr, hb⟩ (stepAllowed_iff.mpr ha),
    fun hw => transact_of_not_enabled hr (not_enabled_step_of_waiting hw), transact_of_enabled hr rfl,
    fun _ => ⟨transact_keyPress hr, transact_keyRelease hr⟩, fun _ => transact_of_enabled hr rfl⟩

end Sys2Proof.Machine
end

section
/-! PROOF. The statements of spec/60_exceptions.md: what an instruction leaves when it goes on and when it latches a
fault, what a fault records, the states that admit nothing, the tick, the render acknowledgement and quit. -/

namespace Sys2Proof.Machine

/-! ## Latching a fault (R201, R202) -/

/-- The event trace of an instruction that has taken no fault: only Unknown emits (R113). -/
def eventsAfter (i : Instr) (l : List Event) : List Event :=
  match i with
  | .unknown w => .unknownOpcode w :: l
  | _ => l

/-- No effect ends the run or moves `pc`, and only that of Unknown emits. -/
theorem Effect.run_pc_events {i : Instr} {s u : State} (h : Effect i s u) :
    u.run = s.run ∧ u.pc = s.pc ∧ u.events = eventsAfter i s.events := by
  cases i with
  | clear =>
    obtain ⟨d, rfl⟩ := h
    exact ⟨rfl, rfl, rfl⟩
  | ret =>
    obtain rfl | ⟨p, rest, -, rfl⟩ := h
    all_goals exact ⟨rfl, rfl, rfl⟩
  | call =>
    obtain rfl | ⟨-, -, rfl⟩ := h
    all_goals exact ⟨rfl, rfl, rfl⟩
  | or | and | xor | add | sub | shr | subN | shl =>
    obtain ⟨b, f, rfl⟩ := h
    exact ⟨rfl, rfl, rfl⟩
  | draw =>
    obtain rfl | ⟨d, b, f, -, rfl⟩ := h
    all_goals exact ⟨rfl, rfl, rfl⟩
  | getKey =>
    obtain ⟨rfl, -⟩ | ⟨rfl, -⟩ | ⟨k, rfl⟩ := h
    all_goals exact ⟨rfl, rfl, rfl⟩
  | addIndex | font =>
    obtain rfl | ⟨a, -, rfl⟩ := h
    all_goals exact ⟨rfl, rfl, rfl⟩
  | bcd =>
    obtain ⟨m, -, rfl⟩ := h
    exact ⟨rfl, rfl, rfl⟩
  | store | restore =>
    obtain ⟨m, -, rfl | ⟨a, -, rfl⟩⟩ := h
    all_goals exact ⟨rfl, rfl, rfl⟩
  | _ =>
    cases h
    exact ⟨rfl, rfl, rfl⟩

/-- Settles O16: the effect leaves the run state and `pc`; then `pc` moves or stays in a Running machine, or a fault is
taken, which leaves `pc` and adds its own event. -/
theorem instructionRunsOnOrLatchesFault : Obligations.InstructionRunsOnOrLatchesFault := by
  intro i s t hr h
  obtain ⟨u, he, hg⟩ := exec_next h
  obtain ⟨hrun, hpc, hev⟩ := he.run_pc_events
  obtain rfl | ⟨p, -, rfl⟩ | ⟨f, -, rfl⟩ := hg
  · exact .inl ⟨hrun.trans hr, hev⟩
  · exact .inl ⟨hrun.trans hr, hev⟩
  · exact .inr ⟨f, rfl, hpc, congrArg _ hev⟩

/-! ## Tick and render acknowledgement (R208, R210, R212) -/

/-- The floor of the countdown is that of subtraction on the naturals. -/
theorem countDown_eq (b : Byte) : countDown b = BitVec.ofNat 8 (b.toNat - 1) := by
  unfold countDown
  split_ifs with h
  · rw [h]
    rfl
  · bv_omega

/-- The signal of R210 goes by the value of ST before the tick. -/
theorem tick_eq (s : State) : tick s =
    ((s.setDt (countDown s.dt)).setSt (countDown s.st)).setEvents
      (if s.st.toNat = 1 then .soundZero :: s.events else s.events) := by
  have hst : s.st = 0x01#8 ↔ s.st.toNat = 1 := BitVec.toNat_inj.symm
  rw [tick, if_congr hst rfl rfl]
  split_ifs
  · rfl
  · rfl

/-- Settles O52: a tick is enabled in every input-block state. -/
theorem tickCountsDown : Obligations.TickCountsDown := by
  intro s hr
  rw [transact_of_enabled hr rfl, ← countDown_eq, ← countDown_eq, ← tick_eq, perform]

/-- Settles O53: both acknowledgements are enabled in every Running machine; the failure is a raise. -/
theorem renderAckClearsDirty : Obligations.RenderAckClearsDirty := fun _ hr =>
  ⟨transact_of_enabled hr rfl, transact_of_enabled hr rfl⟩

/-! ## What a fault records (R200)

Each operation answers a state whose fault, if it has one, records a value out of range: the machine has not halted, or
the fault has just been taken. -/

/-- The fault of a halted state, if it is one, records what its check rejects. -/
def FaultOutOfRange (t : State) : Prop := ∀ f, t.run = .halted f → faultInfoOutOfRange f

section
variable {s t : State} {f : Fault}

theorem FaultOutOfRange.of_running (h : t.run = .running) : FaultOutOfRange t := fun f hf => by
  rw [h] at hf
  cases hf

theorem FaultOutOfRange.takeFault (h : faultInfoOutOfRange f) : FaultOutOfRange (takeFault f s) := fun f' hf => by
  cases hf
  exact h

theorem InstrFault.outOfRange (h : InstrFault f) : faultInfoOutOfRange f := by
  cases f with
  | registerIndexOverflow | inputStateInvariant => exact h.elim
  | renderFailure => trivial
  | _ => exact h

theorem exec_faultOutOfRange {i : Instr} (hr : s.run = .running) (h : exec i s = .next t) : FaultOutOfRange t := by
  obtain ⟨u, he, hg⟩ := exec_next h
  obtain ⟨hrun, -⟩ := he.run_pc_events
  obtain rfl | ⟨p, -, rfl⟩ | ⟨f, hf, rfl⟩ := hg
  · exact .of_running (hrun.trans hr)
  · exact .of_running (hrun.trans hr)
  · exact .takeFault hf.outOfRange

/-- The checks of R203 in their order: the two bytes of the fetch, the GetKey of a Released state, the operation's. -/
theorem engineStep_faultOutOfRange (hr : s.run = .running) (h : engineStep s = .next t) : FaultOutOfRange t := by
  rw [engineStep_eq, dispatchWord] at h
  split_ifs at h with h0 h1 hp hk
  · cases h
    exact .takeFault h0
  · cases h
    exact .takeFault h1
  · cases h
    obtain ⟨-, hk⟩ := hk
    exact .takeFault hk
  · exact exec_faultOutOfRange hr h

theorem recordBase_run (addr : Nat) (s : State) : (recordBase addr s).run = s.run := by
  unfold recordBase
  split
  · rfl
  · rfl

/-- The two checks of a load (R59). -/
theorem load_faultOutOfRange {addr : Nat} {bytes : List Byte} (hr : s.run = .running)
    (h : finish (load addr bytes) s = .next t) : FaultOutOfRange t := by
  rcases Nat.lt_or_ge addr 4096 with ha | ha
  · rcases Nat.lt_or_ge 4096 (addr + bytes.length) with hl | hl
    · rw [finish_fault _ _ _ (load_fault_of_length ha hl)] at h
      cases h
      exact .takeFault hl.le
    · rw [finish_ok _ _ _ (load_ok ha hl)] at h
      cases h
      exact .of_running ((recordBase_run _ _).trans hr)
  · rw [finish_fault _ _ _ (load_fault_of_address ha)] at h
    cases h
    exact .takeFault ha

theorem perform_faultOutOfRange {a : Transaction} (hr : s.run = .running) (h : perform a s = .next t) :
    FaultOutOfRange t := by
  cases a with
  | load addr bytes => exact load_faultOutOfRange hr h
  | step => exact engineStep_faultOutOfRange hr h
  | keyPress | keyRelease =>
    cases h
    exact .of_running hr
  | tick =>
    cases h
    exact .of_running (by rw [tick_eq]; exact hr)
  | renderAck ok =>
    cases ok with
    | true =>
      cases h
      exact .of_running hr
    | false =>
      cases h
      exact .takeFault trivial
  | quit =>
    cases h
    exact nofun

end

/-- The schedule holds no run state. -/
theorem nextTransaction_run {a : Transaction} {s u : State} (h : nextTransaction s = (a, u)) : u.run = s.run := by
  obtain ⟨l, rfl⟩ | ⟨o, rfl⟩ := nextTransaction_frame h
  · rfl
  · rfl

/-- Settles O17: the transaction that a step takes has no effect, or is performed in a Running machine. -/
theorem faultsRecordOutOfRangeValues : Obligations.FaultsRecordOutOfRangeValues := by
  intro s t f hr h
  obtain ⟨a, u, hn⟩ : ∃ a u, nextTransaction s = (a, u) := ⟨_, _, rfl⟩
  rw [step_of_nextTransaction hn] at h
  have hu : u.run = .running := (nextTransaction_run hn).trans hr
  obtain rfl | ⟨-, -, hp⟩ := transact_next h
  · exact FaultOutOfRange.of_running hu f
  · exact perform_faultOutOfRange hu hp f

/-! ## The ends of a run (R201, R213) -/

theorem transact_of_halted {s : State} {f : Fault} (a : Transaction) (h : s.run = .halted f) :
    transact a s = .fault f := by rw [transact, h]

theorem transact_of_stopped {s : State} (a : Transaction) (h : s.run = .stopped) : transact a s = .next s := by
  rw [transact, h]

/-- Settles O14: a step is a transaction, and taking it off the schedule leaves the machine halted. -/
theorem haltedAdmitsNothing : Obligations.HaltedAdmitsNothing := fun _ _ a h =>
  ⟨transact_of_halted a h, transact_of_halted _ ((nextTransaction_run rfl).trans h)⟩

/-- Settles O15: quit is enabled in every Running machine. -/
theorem quitStopsTheMachine : Obligations.QuitStopsTheMachine :=
  ⟨fun _ hr => transact_of_enabled hr rfl, fun _ a h => transact_of_stopped a h⟩

end Sys2Proof.Machine
end

section
/-! PROOF. The statements of spec/70_reset_and_hazards.md: the boot out of reset, and the parked state. -/

namespace Sys2Proof.Machine

/-! ## The boot (R241, R242) -/

/-- Settles O55: each load is one that fits (R59), the first with no base recorded and the second with FONT_BASE
recorded; what the second leaves unwritten reads as the first left it. -/
theorem bootStartsRunLoop : Obligations.BootStartsRunLoop := by
  intro fa ca fb cb hf hc
  obtain ⟨hfont, -, -⟩ := loaderBounds State.reset fa.toNat fb rfl rfl rfl
  obtain ⟨m₁, h₁, hw₁, hr₁⟩ := hfont fa.isLt hf
  obtain ⟨hcart, -, -⟩ :=
    loaderBounds ((State.reset.setMem m₁).setFontBase (some (BitVec.ofNat 12 fa.toNat))) ca.toNat cb rfl rfl hw₁
  obtain ⟨m, h, -, hr⟩ := hcart ca.isLt hc
  refine ⟨_, m, h₁, h.trans ?_, fun a => ?_⟩
  · rw [BitVec.ofNat_toNat, BitVec.ofNat_toNat, BitVec.ofNat_toNat, BitVec.setWidth_eq, BitVec.setWidth_eq]
    rfl
  · exact (hr a).trans (if_congr Iff.rfl rfl (hr₁ a))

/-! ## The parked state (R244, D31) -/

section
variable {s : State}

theorem toNat_encode_jump (nnn : Addr) : (encode (.jump nnn)).toNat = 0x1000 + nnn.toNat := by
  rw [encode, wordNNN, BitVec.toNat_append, ← Nat.shiftLeft_add_eq_or_of_lt nnn.isLt]
  rfl

/-- A jump is not in the ambiguous set (R83). -/
theorem ambiguous_encode_jump (nnn : Addr) : ambiguous (encode (.jump nnn)) = false := by
  rw [encode, ambiguous, category_wordNNN]
  rfl

theorem condition_eq_parked (h : condition s = .parked) :
    s.run = .running ∧ s.istate = .idle ∧ atSelfJump s = true := by
  unfold condition at h
  split at h
  case h_3 hr =>
    split at h
    case h_4 hi =>
      split at h
      case isTrue hj => exact ⟨hr, hi, hj⟩
      case isFalse => cases h
    all_goals cases h
  all_goals cases h

/-- The word of a self-jump is the encoding of the jump to `pc`. -/
theorem atSelfJump_word (h : atSelfJump s = true) :
    CanFetch s ∧ wordAt s = encode (.jump (s.pc.setWidth 12)) := by
  simp only [atSelfJump, Bool.and_eq_true, decide_eq_true_eq, beq_iff_eq] at h
  obtain ⟨hc, hw⟩ := h
  refine ⟨hc, BitVec.eq_of_toNat_eq ?_⟩
  rw [toNat_encode_jump, hw, BitVec.toNat_setWidth, Nat.mod_eq_of_lt (by omega)]

/-- A jump to `pc` changes nothing. -/
theorem exec_jump_self (h : s.pc.toNat < 4096) : exec (.jump (s.pc.setWidth 12)) s = .next s := by
  have hp : (s.pc.setWidth 12).setWidth 16 = s.pc := BitVec.eq_of_toNat_eq (by
    rw [BitVec.toNat_setWidth, BitVec.toNat_setWidth]
    omega)
  rw [jumpGoesToTarget, hp]
  rfl

/-- A parked state passes every check of the step, which then jumps to where `pc` is. -/
theorem transact_step_of_parked (hb : s.booted = true) (hp : condition s = .parked) : transact .step s = .next s := by
  obtain ⟨hr, hi, hj⟩ := condition_eq_parked hp
  obtain ⟨hc, hw⟩ := atSelfJump_word hj
  have ha : ambiguous (wordAt s) = false := hw ▸ ambiguous_encode_jump _
  calc transact .step s
    _ = exec (decode (wordAt s)) s := transact_step_eq_exec ⟨hr, hb⟩ (.inl hi) hc (.inr ha) (.inl hi)
    _ = exec (.jump (s.pc.setWidth 12)) s := by rw [hw, decodeEncodeRoundTrip _ rfl]
    _ = .next s := exec_jump_self (by omega)

end

/-- Settles O57: taking the step off the schedule moves the schedule alone, so the state it leaves is parked too. -/
theorem parkedStepReturnsSame : Obligations.ParkedStepReturnsSame := by
  refine fun s hb hp => ⟨transact_step_of_parked hb hp, fun u hn => (step_of_nextTransaction hn).trans ?_⟩
  obtain ⟨l, rfl⟩ | ⟨o, rfl⟩ := nextTransaction_frame hn
  · exact transact_step_of_parked (s := s.setScript l) hb hp
  · exact transact_step_of_parked (s := s.setOnward o) hb hp

end Sys2Proof.Machine
end

section
/-! PROOF. The statements of spec/10_state.md that name the writers of `I`, of the stack and of the timers, and what
belongs to the host; then the invariants at construction, and the faults that they shut out. -/

namespace Sys2Proof.Machine

/-! ## The writers of I, the stack, DT and ST (R24, R26–R28) -/

/-- The instructions that do not write `I` (R24). -/
def LeavesIndex (i : Instr) : Prop :=
  match i with
  | .setIndex _ => False
  | .addIndex _ => False
  | .font _ => False
  | .store _ => False
  | .restore _ => False
  | _ => True

/-- The instructions that do not write the stack (R26). -/
def LeavesStack (i : Instr) : Prop :=
  match i with
  | .call _ => False
  | .ret => False
  | _ => True

/-- The instructions that do not write DT (R27). -/
def LeavesDt (i : Instr) : Prop :=
  match i with
  | .setDelay _ => False
  | _ => True

/-- The instructions that do not write ST (R28). -/
def LeavesSt (i : Instr) : Prop :=
  match i with
  | .setSound _ => False
  | _ => True

/-- The draw counter after an instruction: only Random draws (R133). -/
def drawsAfter (i : Instr) (n : Nat) : Nat :=
  match i with
  | .random _ _ => n + 1
  | _ => n

/-- The fields that have one or a few writers among the instructions, as those leave them. -/
structure KeepsSpecial (i : Instr) (s u : State) : Prop where
  index : LeavesIndex i → u.index = s.index
  stack : LeavesStack i → u.stack = s.stack
  dt : LeavesDt i → u.dt = s.dt
  st : LeavesSt i → u.st = s.st
  draws : u.draws = drawsAfter i s.draws

section
variable {i : Instr} {s t u : State}

/-- An effect that writes none of the four. -/
theorem KeepsSpecial.of_eq (hi : u.index = s.index) (hk : u.stack = s.stack) (hd : u.dt = s.dt) (ht : u.st = s.st)
    (hn : u.draws = drawsAfter i s.draws) : KeepsSpecial i s u :=
  ⟨fun _ => hi, fun _ => hk, fun _ => hd, fun _ => ht, hn⟩

/-- The effect of an instruction writes these fields as listed. -/
theorem Effect.keepsSpecial (h : Effect i s u) : KeepsSpecial i s u := by
  cases i with
  | ret =>
    obtain rfl | ⟨p, rest, -, rfl⟩ := h
    all_goals exact ⟨fun _ => rfl, False.elim, fun _ => rfl, fun _ => rfl, rfl⟩
  | call =>
    obtain rfl | ⟨-, -, rfl⟩ := h
    all_goals exact ⟨fun _ => rfl, False.elim, fun _ => rfl, fun _ => rfl, rfl⟩
  | setIndex =>
    cases h
    exact ⟨False.elim, fun _ => rfl, fun _ => rfl, fun _ => rfl, rfl⟩
  | addIndex | font =>
    obtain rfl | ⟨a, -, rfl⟩ := h
    all_goals exact ⟨False.elim, fun _ => rfl, fun _ => rfl, fun _ => rfl, rfl⟩
  | store | restore =>
    obtain ⟨m, -, rfl | ⟨a, -, rfl⟩⟩ := h
    all_goals exact ⟨False.elim, fun _ => rfl, fun _ => rfl, fun _ => rfl, rfl⟩
  | setDelay =>
    cases h
    exact ⟨fun _ => rfl, fun _ => rfl, False.elim, fun _ => rfl, rfl⟩
  | setSound =>
    cases h
    exact ⟨fun _ => rfl, fun _ => rfl, fun _ => rfl, False.elim, rfl⟩
  | clear =>
    obtain ⟨d, rfl⟩ := h
    exact .of_eq rfl rfl rfl rfl rfl
  | or | and | xor | add | sub | shr | subN | shl =>
    obtain ⟨b, f, rfl⟩ := h
    exact .of_eq rfl rfl rfl rfl rfl
  | draw =>
    obtain rfl | ⟨d, b, f, -, rfl⟩ := h
    all_goals exact .of_eq rfl rfl rfl rfl rfl
  | getKey =>
    obtain ⟨rfl, -⟩ | ⟨rfl, -⟩ | ⟨k, rfl⟩ := h
    all_goals exact .of_eq rfl rfl rfl rfl rfl
  | bcd =>
    obtain ⟨m, -, rfl⟩ := h
    exact .of_eq rfl rfl rfl rfl rfl
  | _ =>
    cases h
    exact .of_eq rfl rfl rfl rfl rfl

/-- What ends an instruction writes none of these fields. -/
theorem exec_keepsSpecial (h : exec i s = .next t) : KeepsSpecial i s t := by
  obtain ⟨u, he, hg⟩ := exec_next h
  obtain ⟨p, r, l, rfl⟩ := hg.frame
  obtain ⟨hi, hk, hd, ht, hn⟩ := he.keepsSpecial
  exact ⟨hi, hk, hd, ht, hn⟩

end

/-- Settles O22: the effect names the writers, and what ends an instruction writes none of these fields. -/
theorem specialRegisterWriters : Obligations.SpecialRegisterWriters := by
  intro i s t h
  obtain ⟨hi, hk, hd, ht, -⟩ := exec_keepsSpecial h
  exact ⟨hi, hk, hd, ht⟩

/-! ## What belongs to the host (R31, R32, R34) -/

/-- No effect writes a key flag, a load record, a parameter or the schedule. -/
theorem Writes.host_eq {i : Instr} {s u : State} (h : Writes i s u) :
    u.keys = s.keys ∧ u.fontBase = s.fontBase ∧ u.cartBase = s.cartBase ∧ u.params = s.params ∧ u.script = s.script
      ∧ u.onward = s.onward := by
  cases h with
  | data | clear | draw | wait | memory | pop | push => exact ⟨rfl, rfl, rfl, rfl, rfl, rfl⟩

/-- Settles O24: of what an effect can write, only GetKey writes the input-block state and only Random draws. -/
theorem hostStateUntouchedByInstructions : Obligations.HostStateUntouchedByInstructions := by
  intro i s t h
  have hdraws := (exec_keepsSpecial h).draws
  obtain ⟨u, he, hg⟩ := exec_next h
  obtain ⟨p, r, l, rfl⟩ := hg.frame
  obtain ⟨hk, hf, hc, hp, hs, ho⟩ := he.writes.host_eq
  refine ⟨hk, hf, hc, hp, hs, ho, fun hi => he.writes.istate_eq (eq_false_of_ne_true fun hkey => ?_), hdraws⟩
  obtain ⟨x, rfl⟩ := isGetKey_iff.mp hkey
  exact hi

/-! ## The invariants at construction (R41) -/

/-- Settles O58: memory lists nothing, the addresses are 0, the stack is empty and no key wait is on. -/
theorem invariantAtReset : Obligations.InvariantAtReset :=
  ⟨State.reset_mem_wf, Nat.zero_lt_succ _, Nat.zero_lt_succ _, rfl, rfl, rfl⟩

/-! ## The faults that no run takes (R21, R103, R177)

A fault latched from a state that meets the invariants is one that instructions raise (`InstrFault`, which leaves out
RegisterIndexOverflow and InputStateInvariant) or RenderFailure. -/

section
variable {s t : State} {f : Fault}

/-- The effect of an instruction leaves the machine Running, so a fault latched is the one that ended it. -/
theorem exec_halted {i : Instr} (hr : s.run = .running) (h : exec i s = .next t) (hf : t.run = .halted f) :
    InstrFault f := by
  obtain ⟨u, he, hg⟩ := exec_next h
  obtain ⟨hrun, -⟩ := he.run_pc_events
  have hru : u.run = .running := hrun.trans hr
  obtain rfl | ⟨p, -, rfl⟩ | ⟨f', hf', rfl⟩ := hg
  · exact nomatch hru.symm.trans hf
  · exact nomatch hru.symm.trans hf
  · cases hf
    exact hf'

/-- In Released the word at `pc` is a GetKey, so the check of R177 passes. -/
theorem engineStep_halted (hw : waitOk s = true) (hr : s.run = .running) (h : engineStep s = .next t)
    (hf : t.run = .halted f) : InstrFault f := by
  rw [engineStep_eq, dispatchWord] at h
  split_ifs at h with h0 h1 hp hk
  · cases h
    cases hf
    exact h0
  · cases h
    cases hf
    exact h1
  · obtain ⟨hrel, hkey⟩ := hk
    have hi : s.istate ≠ .idle := fun hi => by
      rw [hi] at hrel
      cases hrel
    obtain ⟨-, -, hkey'⟩ := waitOk_iff.mp hw hi
    exact nomatch hkey.symm.trans hkey'
  · exact exec_halted hr h hf

/-- A load takes MemoryOverflow alone (R59). -/
theorem load_halted {addr : Nat} {bytes : List Byte} (hr : s.run = .running)
    (h : finish (load addr bytes) s = .next t) (hf : t.run = .halted f) : InstrFault f := by
  rw [finish, load_run] at h
  split_ifs at h with ha hl
  · cases h
    cases hf
    exact ha
  · cases h
    cases hf
    exact hl.le
  · cases h
    rw [recordBase_run] at hf
    exact nomatch hr.symm.trans hf

theorem perform_halted {a : Transaction} (hw : waitOk s = true) (hr : s.run = .running) (h : perform a s = .next t)
    (hf : t.run = .halted f) : InstrFault f ∨ f = .renderFailure := by
  cases a with
  | load addr bytes => exact .inl (load_halted hr h hf)
  | step => exact .inl (engineStep_halted hw hr h hf)
  | renderAck ok =>
    cases ok with
    | true =>
      cases h
      exact nomatch hr.symm.trans hf
    | false =>
      cases h
      cases hf
      exact .inr rfl
  | keyPress | keyRelease =>
    cases h
    exact nomatch hr.symm.trans hf
  | tick =>
    cases h
    rw [tick_eq] at hf
    exact nomatch hr.symm.trans hf
  | quit =>
    cases h
    cases hf

/-- The schedule holds nothing that the key wait rests on. -/
theorem nextTransaction_waitOk {a : Transaction} {u : State} (h : nextTransaction s = (a, u)) :
    waitOk u = waitOk s := by
  obtain ⟨l, rfl⟩ | ⟨o, rfl⟩ := nextTransaction_frame h
  · rfl
  · rfl

theorem step_halted (hw : waitOk s = true) (hr : s.run = .running) (h : step s = .next t) (hf : t.run = .halted f) :
    InstrFault f ∨ f = .renderFailure := by
  obtain ⟨a, u, hn⟩ : ∃ a u, nextTransaction s = (a, u) := ⟨_, _, rfl⟩
  rw [step_of_nextTransaction hn] at h
  have hu : u.run = .running := (nextTransaction_run hn).trans hr
  obtain rfl | ⟨-, -, hp⟩ := transact_next h
  · exact nomatch hu.symm.trans hf
  · exact perform_halted ((nextTransaction_waitOk hn).trans hw) hu hp hf

/-- A Return of a stack of addresses goes on, or takes StackUnderflow (R103). -/
theorem exec_ret_halted (hk : stackOk s = true) (hr : s.run = .running) (h : exec .ret s = .next t)
    (hf : t.run = .halted f) : f = .stackUnderflow := by
  obtain ⟨hempty, hpop⟩ := returnPopsStack s
  cases hs : s.stack with
  | nil =>
    rw [hempty hs] at h
    cases h
    cases hf
    rfl
  | cons p rest =>
    rw [stackOk, hs, List.all_cons, Bool.and_eq_true, decide_eq_true_eq] at hk
    obtain ⟨hp, -⟩ := hk
    obtain ⟨hjump, -⟩ := hpop p rest hs
    rw [hjump hp] at h
    cases h
    exact nomatch hr.symm.trans hf

end

/-- Settles O60: the faults that a step can latch are named by `step_halted`, those of a Return by `exec_ret_halted`. -/
theorem unreachableFaultsAreNotTaken : Obligations.UnreachableFaultsAreNotTaken := by
  rintro s t ⟨-, -, -, hk, -, hw⟩ hr
  exact ⟨fun h => ⟨fun _ hf => (step_halted hw hr h hf).elim id nofun,
      fun _ hf => (step_halted hw hr h hf).elim id nofun⟩,
    fun h _ hf => nomatch exec_ret_halted hk hr h hf⟩

end Sys2Proof.Machine
end

section
/-! PROOF. The statements of spec/20_memory.md on memory as data and on when a load is enabled. -/

namespace Sys2Proof.Machine

/-! ## The canonical form (log entry 11) -/

section
variable {m : Memory} {lo a : Nat} {v : Byte}

theorem Memory.wfFrom_cons : Memory.wfFrom lo ((a, v) :: m) = true ↔
    lo ≤ a ∧ a < 4096 ∧ v ≠ Memory.unlisted ∧ Memory.wfFrom (a + 1) m = true := by
  simp only [Memory.wfFrom, Bool.and_eq_true, decide_eq_true_eq, bne_iff_ne, and_assoc]

/-- An address that reads as no unlisted one does is not below the bound. -/
theorem Memory.le_of_read_ne (h : Memory.wfFrom lo m = true) (ha : Memory.read m a ≠ Memory.unlisted) : lo ≤ a :=
  Nat.not_lt.mp fun hlt => ha (Memory.read_of_lt h hlt)

theorem Memory.read_cons_self : Memory.read ((a, v) :: m) a = v := if_pos rfl

/-- Without its first entry a memory reads as before, but at that entry's address. -/
theorem Memory.read_tail (h : Memory.wfFrom (a + 1) m = true) (b : Nat) :
    Memory.read m b = if a = b then Memory.unlisted else Memory.read ((a, v) :: m) b := by
  split_ifs with hab
  · exact Memory.read_of_lt h (by omega)
  · exact (if_neg hab).symm

end

/-- By the entries of both: the first ones have the same address, for neither memory lists anything before its own. -/
theorem Memory.eq_of_read_eq {m m' : Memory} {lo lo' : Nat} (h : Memory.wfFrom lo m = true)
    (h' : Memory.wfFrom lo' m' = true) (hr : ∀ a, a < 4096 → Memory.read m a = Memory.read m' a) : m = m' := by
  induction m generalizing m' lo lo' with
  | nil =>
    cases m' with
    | nil => rfl
    | cons c n' =>
      obtain ⟨b, w⟩ := c
      obtain ⟨-, hb, hw, -⟩ := Memory.wfFrom_cons.mp h'
      exact absurd ((hr b hb).trans Memory.read_cons_self).symm hw
  | cons c n ih =>
    obtain ⟨a, v⟩ := c
    obtain ⟨-, ha, hv, hn⟩ := Memory.wfFrom_cons.mp h
    have hra := hr a ha
    rw [Memory.read_cons_self] at hra
    cases m' with
    | nil => exact absurd hra hv
    | cons c n' =>
      obtain ⟨b, w⟩ := c
      obtain ⟨-, hb, hw, hn'⟩ := Memory.wfFrom_cons.mp h'
      have hrb := hr b hb
      rw [Memory.read_cons_self] at hrb
      have hab : a ≤ b := Memory.le_of_read_ne (Memory.wfFrom_cons.mpr ⟨le_rfl, ha, hv, hn⟩) (hrb ▸ hw)
      have hba : b ≤ a := Memory.le_of_read_ne (Memory.wfFrom_cons.mpr ⟨le_rfl, hb, hw, hn'⟩) (hra ▸ hv)
      obtain rfl : a = b := Nat.le_antisymm hab hba
      obtain rfl : v = w := hra.trans Memory.read_cons_self
      rw [ih hn hn' fun b hb => by rw [Memory.read_tail (v := v) hn, Memory.read_tail (v := v) hn', hr b hb]]

/-- Settles O19: the canonical form from address 0 on. -/
theorem memoryDeterminedByReads : Obligations.MemoryDeterminedByReads := fun _ _ => Memory.eq_of_read_eq

/-! ## Loads and the run loop (log entry 4) -/

/-- Settles O13: whether a step or a load is enabled turns on whether both bases are recorded. -/
theorem loadsOnlyBeforeRunLoop : Obligations.LoadsOnlyBeforeRunLoop := fun _ hr =>
  ⟨fun hb => transact_of_not_enabled hr (by rw [enabled, hb, Bool.false_and]),
    fun hb _ _ => transact_of_not_enabled hr (by rw [enabled, hb, Bool.not_true])⟩

end Sys2Proof.Machine
end

section
/-! PROOF. The statement of spec/43_display.md on two draws: the same sprite flips the same pixels twice. -/

namespace Sys2Proof.Machine

section
variable {i : Instr} {x y n : Nibble} {s t u : State}

/-- The two ends of an instruction that comes to `Advance(2)` (R101). -/
theorem RunsTo.next_cases (h : RunsTo i s t) (hu : exec i s = .next u) :
    u = t.setPc (s.pc + 2#16) ∨ u = takeFault (.programCounterOverflow (s.pc.toNat + 2)) t := by
  obtain ⟨hok, hfault⟩ := h
  rcases Nat.lt_or_ge (s.pc.toNat + 2) 4096 with hp | hp
  · rw [hok hp] at hu
    cases hu
    exact .inl rfl
  · rw [hfault hp] at hu
    cases hu
    exact .inr rfl

/-- A draw that leaves the machine Running has read its sprite inside memory (D6). -/
theorem draw_le_of_running (h : exec (.draw x y n) s = .next t) (hr : t.run = .running) :
    n = 0#4 ∨ s.index.toNat + n.toNat ≤ 4096 := by
  by_contra! hn
  obtain ⟨h0, hm⟩ := hn
  rw [drawFaultChangesNothing x y n s h0 hm] at h
  cases h
  cases hr

/-- What a draw with its sprite inside memory leaves on the display and in VF, whether or not it ends in a fault. -/
theorem exec_draw_pixel_vf (h : exec (.draw x y n) s = .next t) (hm : n = 0#4 ∨ s.index.toNat + n.toNat ≤ 4096) :
    (∀ c r, t.pixel c r = (s.pixel c r ^^ spriteOn s x y n c r))
      ∧ ((∃ c r, spriteOn s x y n c r = true ∧ s.pixel c r = true) → t.reg vf = 1#8) := by
  obtain ⟨d, b, f, hruns, hpixel, -, hvf, -⟩ := drawFlipsSpritePixels x y n s hm
  have hreg : (((s.setDisp d).setDirty b).setReg vf f).reg vf = f := State.reg_setReg_same _ vf f
  obtain rfl | rfl := hruns.next_cases h
  · exact ⟨hpixel, fun hc => hreg.trans (hvf hc)⟩
  · exact ⟨hpixel, fun hc => hreg.trans (hvf hc)⟩

/-- A draw leaves `I` and memory. -/
theorem exec_draw_frame (h : exec (.draw x y n) s = .next t) : t.index = s.index ∧ t.mem = s.mem := by
  obtain ⟨u, he, hg⟩ := exec_next h
  exact ⟨(exec_keepsSpecial h).index trivial, hg.mem_eq.trans (he.mem_eq nofun nofun)⟩

/-- A draw leaves every register but VF. -/
theorem exec_draw_reg {z : Nibble} (h : exec (.draw x y n) s = .next t) (hz : z ≠ vf) : t.reg z = s.reg z :=
  registersWrittenOnlyAsListed _ s t z h (beq_eq_false_iff_ne.mpr hz)

/-- The sprite depends on its anchor, `I` and memory alone. -/
theorem spriteOn_congr (hx : t.reg x = s.reg x) (hy : t.reg y = s.reg y) (hi : t.index = s.index)
    (hm : t.mem = s.mem) : spriteOn t x y n = spriteOn s x y n := by
  funext c r
  rw [spriteOn, spriteOn, hx, hy, hi, hm]

end

/-- Settles O48: the first draw moves neither the anchor nor the sprite, so the second flips the same pixels. -/
theorem drawTwiceRestoresDisplay : Obligations.DrawTwiceRestoresDisplay := by
  intro x y n s t u hx hy _ h htr hu
  have hfits := draw_le_of_running h htr
  obtain ⟨hindex, hmem⟩ := exec_draw_frame h
  have hsprite : spriteOn (t.setPc s.pc) x y n = spriteOn s x y n :=
    spriteOn_congr (t := t) (exec_draw_reg h hx) (exec_draw_reg h hy) hindex hmem
  obtain ⟨hpixel, -⟩ := exec_draw_pixel_vf h hfits
  obtain ⟨hpixel', hvf⟩ := exec_draw_pixel_vf hu (by rwa [State.setPc_index, hindex])
  simp only [hsprite, State.setPc_pixel, hpixel] at hpixel' hvf
  refine ⟨fun c r => ?_, fun ⟨c, r, hon, hoff⟩ => hvf ⟨c, r, hon, ?_⟩⟩
  · rw [hpixel', Bool.xor_assoc, Bool.xor_self, Bool.xor_false]
  · rw [hon, hoff, Bool.false_xor]

end Sys2Proof.Machine
end
